-- ==== Sys2Proof/Word.lean ====
section
/-! DEFINITION. The widths and numberings every other file uses (00_scope.md section 7). -/

namespace Sys2Proof

/-- A byte of a message, a record or a register. -/
abbrev Byte := BitVec 8

/-- A 32-bit register (R166). -/
abbrev Word := BitVec 32

/-- A Work Area address (R166: the anchor and the page base have 64 bits). -/
abbrev Address := BitVec 64

/-- Ports are numbered 0 to 23. -/
abbrev PortId := Fin 24

/-- Exercisers are numbered 0 to 3. -/
abbrev ExerciserId := Fin 4

/-- Lanes within a port are numbered 0 to 3. -/
abbrev LaneId := Fin 4

/-- A port mask: bit n stands for port n. -/
abbrev PortMask := BitVec 24

end Sys2Proof
end

