-- ==== Sys2Proof/Syntax.lean ====
section
/-! DEFINITION. The commands of the block: one constructor for each row of spec/opcode_table.json. -/

namespace Sys2Proof

/-- The settled level an off-state line check reads (R58). -/
inductive Level where
  | ground
  | supply
  | terminationWindow
  | openBias
  | other
  deriving DecidableEq, Repr

/-- What one off-state measuring window found on a port's receive pair (R58). -/
structure LineWindow where
  transitions : Nat
  level       : Level
  deriving DecidableEq, Repr

/-- A lane, and the bits received on it since its checker's last event, in order (R126, R127, log 14). -/
structure LaneBits where
  lane : LaneId
  bits : List Bool
  deriving DecidableEq, Repr

/-- The 8 bits of a sync check, the first received as most significant bit (R76), and whether, where lock lost takes the port to another
state, the entry to that state reaches a check in flight before the lock loss does (R159, log 51). -/
structure SyncBits where
  bits       : Byte
  entryFirst : Bool
  deriving DecidableEq, Repr

/-- The Work Area accesses that can end in an error (R176). -/
inductive Access where
  | linkRead
  | recordRead
  | takenWrite
  | recordWrite (record : Address)
  | planRead
  | listRead
  | reportWrite
  | pageWrite
  deriving DecidableEq, Repr

/-- The commands. A command is one indivisible step of the block (95_what_each_step_holds.md); its operands are
what the step takes from outside. -/
inductive Instr where
  /-- COLD_RESET (R1). -/
  | coldReset
  /-- RUN_SET (R7): a CONTROL write with RUN = 1, WARM_RESET = 0, and the RESUME and IRQ_EN it holds. -/
  | runSet (resume irqEn : Bool)
  /-- RUN_CLEAR (R32): a CONTROL write with RUN = 0, WARM_RESET = 0, and the RESUME and IRQ_EN it holds. -/
  | runClear (resume irqEn : Bool)
  /-- WARM_RESET (R33): a CONTROL write with WARM_RESET = 1 and the other fields it holds. -/
  | warmReset (run resume irqEn : Bool)
  /-- RESUME (R177): a CONTROL write with RESUME = 1, WARM_RESET = 0, and the RUN and IRQ_EN it holds. -/
  | resume (run irqEn : Bool)
  /-- IRQ_EN_WRITE (R183): a CONTROL write of IRQ_EN, with WARM_RESET = 0 and the RUN and RESUME it holds. -/
  | irqEnWrite (run resume irqEn : Bool)
  /-- ANCHOR_WRITE (R166): to ANCHOR_HIGH when `high`, else to ANCHOR_LOW. -/
  | anchorWrite (high : Bool) (v : Word)
  /-- PAGE_LOW_WRITE (R166). -/
  | pageLowWrite (v : Word)
  /-- PAGE_HIGH_WRITE (R180). -/
  | pageHighWrite (v : Word)
  /-- NUDGE (R169). -/
  | nudge (v : Word)
  /-- SUMMARY_WRITE (R182). -/
  | summaryWrite (v : Word)
  /-- SUMMARY_ENABLE_WRITE (R183). -/
  | summaryEnableWrite (v : Word)
  /-- REGISTER_WRITE_OTHER (R166): a write of `v` at an offset of the window with no behaviour of its own. -/
  | registerWriteOther (offset : Nat) (v : Word)
  /-- PRESENCE_SAMPLE (R51): the 24 raw values; for each port what its whole 100 µs window found, or none where
  less than 100 µs have passed since the port entered AWAIT_FAR or the check was asked for (R59, R60); the ports
  whose line result is taken before their presence change; whether 100 µs have passed since a LINE check of the
  scheduler was asked for. -/
  | presenceSample (raw : PortMask) (windows : Vector (Option LineWindow) 24) (resultFirst : PortMask) (requestRipe : Bool)
  /-- IDENT_TAKE (R66). -/
  | identTake
  /-- IDENT_SETTLE_END (R67). -/
  | identSettleEnd
  /-- IDENT_ADDRESS_NACK (R68). -/
  | identAddressNack
  /-- IDENT_RETRY_GAP_END (R68). -/
  | identRetryGapEnd
  /-- IDENT_READ_DONE (R67). -/
  | identReadDone
  /-- IDENT_GUARD_END (R66). -/
  | identGuardEnd
  /-- TX_CYCLE_START (R72). -/
  | txCycleStart (p : PortId)
  /-- TX_FRAME_START (R87): `above` is whether the receive amplitude is at or above the threshold (R61). -/
  | txFrameStart (p : PortId) (above : Bool)
  /-- MESSAGE_SEND_START (R90). -/
  | messageSendStart (p : PortId)
  /-- BYTE_TIMER_EXPIRY (R94). -/
  | byteTimerExpiry (p : PortId)
  /-- FRAME_LOCK (R75): the last 52 bits received, the first received as most significant bit. -/
  | frameLock (p : PortId) (bits : BitVec 52)
  /-- RX_SYNC_CHECK (R76): the 8 bits at the expected sync position. -/
  | rxSyncCheck (p : PortId) (sync : SyncBits)
  /-- RX_FRAME_FIELDS (R79): bits 8 to 21 of the received frame as on the line (scrambled), the first received as most
  significant bit; `senderFirst` says which half of the Message Channel takes the frame first. -/
  | rxFrameFields (p : PortId) (bits : BitVec 14) (senderFirst : Bool)
  /-- RX_CYCLE_END (R81). -/
  | rxCycleEnd (p : PortId)
  /-- LOW_SIGNAL_CAUSE_START (R61). -/
  | lowSignalCauseStart (p : PortId)
  /-- LOW_SIGNAL_CAUSE_END (R61). -/
  | lowSignalCauseEnd (p : PortId)
  /-- ARRIVAL_MARK (R109): the ticks from the port's most recent transmit timing mark. -/
  | arrivalMark (p : PortId) (ticks : Fin 2816)
  /-- EXERCISER_GRANT (R121): the Pool takes the request of `p`. -/
  | exerciserGrant (p : PortId)
  /-- LANE_SELECTOR_LOAD_START (R124). -/
  | laneSelectorLoadStart
  /-- LANE_SELECTOR_LOAD_DONE (R124). -/
  | laneSelectorLoadDone
  /-- CHECKER_MARKER_FOUND (R126): the lane with the last 23 bits received, at the given count of the UI count common to the
  exerciser's lanes. -/
  | checkerMarkerFound (e : ExerciserId) (lane : LaneBits) (ui : Nat)
  /-- CHECKER_LOCKED (R126). -/
  | checkerLocked (e : ExerciserId) (lane : LaneBits)
  /-- MARKER_ARRIVAL (R127): at the given UI count. -/
  | markerArrival (e : ExerciserId) (lane : LaneBits) (ui : Nat)
  /-- PEER_START_EXPIRY (R129). -/
  | peerStartExpiry (p : PortId)
  /-- TRAINING_END (R131). -/
  | trainingEnd (p : PortId)
  /-- SOAK_UNIT_END (R133). -/
  | soakUnitEnd (p : PortId)
  /-- SOAK_END (R135). -/
  | soakEnd (p : PortId)
  /-- LOCK_SEARCH_EXPIRY (R12). -/
  | lockSearchExpiry (p : PortId)
  /-- GREET_TIMER_EXPIRY (R13). -/
  | greetTimerExpiry (p : PortId)
  /-- PEER_DELAY_WAIT_EXPIRY (R115). -/
  | peerDelayWaitExpiry (p : PortId)
  /-- SCAN_WAIT_EXPIRY (R115). -/
  | scanWaitExpiry (p : PortId)
  /-- LAPSE_EXPIRY (R22). -/
  | lapseExpiry (p : PortId)
  /-- BLOCK_ERROR_WINDOW_END (R23). -/
  | blockErrorWindowEnd (p : PortId)
  /-- RETRY_PERIOD_END (R142). -/
  | retryPeriodEnd (p : PortId)
  /-- PLAN_CHANGE_NOTICE (R45). -/
  | planChangeNotice (p : PortId)
  /-- WALK_TIMER_EXPIRY (R169). -/
  | walkTimerExpiry
  /-- LINK_READ_DONE (R170): the 8-byte link field. -/
  | linkReadDone (link : Address)
  /-- RECORD_READ_DONE (R170): the 64 bytes, byte n in bits 8n+7..8n. -/
  | recordReadDone (record : BitVec 512)
  /-- TAKEN_WRITE_DONE (R172). -/
  | takenWriteDone
  /-- LOAD_PLAN (R38). -/
  | loadPlan
  /-- PLAN_HEADER_READ_DONE (R38): the 16 bytes, byte n in bits 8n+7..8n. -/
  | planHeaderReadDone (header : BitVec 128)
  /-- PLAN_ENTRY_READ_DONE (R39): the 16 bytes of the next entry, byte n in bits 8n+7..8n. -/
  | planEntryReadDone (entry : BitVec 128)
  /-- PLAN_PATCH (R41). -/
  | planPatch
  /-- RESTART (R31): the ports that take the order in this step (R174). -/
  | restart (ports : PortMask)
  /-- HOLD (R29): the ports that take the order in this step. -/
  | hold (ports : PortMask)
  /-- RELEASE (R30): the ports that take the order in this step. -/
  | release (ports : PortMask)
  /-- DELATCH (R144): the ports that take the order in this step. -/
  | delatch (ports : PortMask)
  /-- CLEAR_RETRIES (R145): the ports that take the order in this step. -/
  | clearRetries (ports : PortMask)
  /-- CLEAR_FLAGS (R150): the ports that take the order in this step. -/
  | clearFlags (ports : PortMask)
  /-- HANDOVER (R21): the ports that take the order in this step. -/
  | handover (ports : PortMask)
  /-- WITHDRAW (R21): the ports that take the order in this step. -/
  | withdraw (ports : PortMask)
  /-- WATCH_SETUP (R55). -/
  | watchSetup
  /-- SCAN_SETUP (R154). -/
  | scanSetup
  /-- SCAN_LIST_ENTRY_READ_DONE (R154): the 4 bytes of the next entry, byte n in bits 8n+7..8n. -/
  | scanListEntryReadDone (entry : Word)
  /-- SCAN_SETUP_INSTALL (R154). -/
  | scanSetupInstall
  /-- SCAN_START (R155). -/
  | scanStart
  /-- SCAN_STOP (R158). -/
  | scanStop
  /-- REPORT (R175). -/
  | report
  /-- REPORT_WRITE_DONE (R175). -/
  | reportWriteDone
  /-- MEMORY_ACCESS_ERROR (R176): the access that ended in the error. -/
  | memoryAccessError (access : Access)
  /-- PAGE_ITEM_WRITE (R181). -/
  | pageItemWrite
  /-- PAGE_ITEM_WRITE_DONE (R181). -/
  | pageItemWriteDone
  /-- PACER_TICK (R156). -/
  | pacerTick
  /-- PEER_REPLY_WAIT_EXPIRY (R161). -/
  | peerReplyWaitExpiry (p : PortId)
  /-- LANE_CHECKER_ERROR (R126, R127): the last of the lane's bits is the wrong one. -/
  | laneCheckerError (e : ExerciserId) (lane : LaneBits)
  /-- IDENT_BYTE_COMPLETE (R69): the byte on the identity bus completes; `b` is its value when it is a data byte. -/
  | identByteComplete (b : Byte)
  /-- MILLISECOND_COUNT_ADVANCE (R2). -/
  | millisecondCountAdvance
  deriving DecidableEq, Repr

end Sys2Proof
end

