-- ==== Sys2Proof/Config.lean ====
section
/-! DEFINITION. The manual's fixed numbers, and the values it leaves open. -/

namespace Sys2Proof.Config

/-- IDENT: part code 0x2440 and revision 1 (R166, R194). -/
def ident : Word := 0x00012440

/-- Lock search timer, in cycles (R5). -/
def lockSearchCycles : Nat := 2048
/-- Greet timer, in cycles (R5). -/
def greetCycles : Nat := 1024
/-- Peer delay wait, in cycles (R5). -/
def peerDelayCycles : Nat := 512
/-- Peer start timer, in cycles (R5, R129). -/
def peerStartCycles : Nat := 4096
/-- Lapse timer, in cycles (R5, R22). -/
def lapseCycles : Nat := 4096
/-- Block-error window, in cycles (R5, R23). -/
def blockWindowCycles : Nat := 8192
/-- Byte timer of the Message Channel, in cycle starts (R94). -/
def byteTimerCycles : Nat := 32
/-- Scan wait of a SCAN job, in cycles (R115). -/
def scanWaitCycles : Nat := 512
/-- Reply wait of a PEER check, in cycles (R161). -/
def replyWaitCycles : Nat := 512
/-- Training, in cycles (R131). -/
def trainingCycles : Nat := 8
/-- Soak unit, in cycles (R133). -/
def soakUnitCycles : Nat := 512
/-- Ticks in one cycle (R109). -/
def cycleTicks : Nat := 2816
/-- Half-ticks in one cycle (R110). -/
def cycleHalfTicks : Nat := 5632
/-- Latency inside the two parts, in half-ticks (R118). -/
def transitHalfTicks : Nat := 104
/-- Walk timer, in milliseconds (R169). -/
def walkTimerMs : Nat := 1

/-- FREE VALUE (log 15). Two recorded markers of a lane stand equally near the reference: whether the
one at the first UI count is taken. R131 names the nearest and states nothing for a tie. -/
opaque markerTie : Nat → Nat → Nat → Bool

/-- FREE VALUE (log 16). The report bytes of an order that is refused before anything was counted (R172). -/
opaque freeByte : Nat → Byte

end Sys2Proof.Config
end

