-- ==== Sys2Proof/Machine/State.lean ====
section
/-! DEFINITION. The state of the block, as plain data, and its value after cold reset. -/

namespace Sys2Proof.Machine

/-! ### Why a command can stop -/

/-- No rule of the spec stops the block: port faults and work faults are effects on State. No constructor. -/
inductive Fault where
  deriving DecidableEq, Repr

/-- A command without a meaning. -/
inductive Refusal where
  /-- Raised only by an arm of exec whose command has no meaning yet; none is left. Safe. -/
  | notModelled (mnemonic : String)
  deriving DecidableEq, Repr

/-! ### Codes (R192) -/

/-- The fifteen port states (section 1.2). -/
inductive PortState where
  | dormant
  | vacant
  | seated
  | awaitFar
  | listen
  | greet
  | measure
  | exercise
  | qualified
  | handed
  | miswired
  | relaying
  | retryWait
  | latched
  | held
  deriving DecidableEq, Repr

/-- Last verdict (R1, R48). -/
inductive Verdict where
  | none
  | matched
  | unplanned
  | wrongPeer
  | mediaMismatch
  | lengthMismatch
  deriving DecidableEq, Repr

/-- The checks that failed (R48). -/
structure VerdictMask where
  unplanned      : Bool
  wrongPeer      : Bool
  mediaMismatch  : Bool
  lengthMismatch : Bool
  deriving DecidableEq, Repr

/-- The stage at which the verdict last failed (R1, R24). -/
inductive MiswiredStage where
  | none
  | greet
  | measure
  deriving DecidableEq, Repr

/-- Last fault (R26, R138). -/
inductive FaultCode where
  | none
  | noLock
  | lockLost
  | noGreeting
  | channelFail
  | delayUnstable
  | peerStall
  | errorRate
  | skew
  | linkLost
  | peerWithdrew
  | linkErrors
  | short
  deriving DecidableEq, Repr

/-- The fifteen sticky flags (R146 to R148). -/
inductive Flag where
  | farOpen
  | lowSignal
  | missing
  | degraded
  | cablePulled
  | identMissing
  | identCorrupt
  | mediaUnverified
  | lengthDisagrees
  | lengthSat
  | delayNegative
  | epochDiffers
  | skewClamped
  | shortSoak
  | peerNoReply
  deriving DecidableEq, Repr

/-- A media class named by an identity block or a plan entry (R35, R63). -/
inductive Media where
  | copper
  | active
  | optical
  deriving DecidableEq, Repr

/-- The kinds of scan check (R159 to R164). -/
inductive ScanKind where
  | line
  | peer
  | delay
  | counts
  | expect
  deriving DecidableEq, Repr

/-- Scan results (R192). -/
inductive ScanResult where
  | none
  | notApplicable
  | terminated
  | openLine
  | short
  | good
  | low
  | replied
  | noReply
  | abandoned
  | length
  | unstable
  | copied
  | absentPlanned
  | absentUnplanned
  deriving DecidableEq, Repr

/-- The bits of SUMMARY (R182, R194). -/
inductive SummaryBit where
  | orderDone
  | portChange
  | presence
  | watchMatch
  | scanPass
  | workFault
  deriving DecidableEq, Repr

/-! ### Plan Table (02) -/

/-- Declared and effective type of a plan entry (R35, R36). -/
inductive EntryType where
  | unplanned
  | planned
  | relay
  deriving DecidableEq, Repr

/-- The cause of a BROKEN mark (R36). -/
inductive BrokenCause where
  | field
  | pairing
  deriving DecidableEq, Repr

/-- Handover policy (R35). -/
inductive HandoverPolicy where
  | auto
  | manual
  deriving DecidableEq, Repr

/-- Retry policy (R35). -/
inductive RetryPolicy where
  | limited
  | unlimited
  | noRetry
  deriving DecidableEq, Repr

/-- A plan entry as held (R34 to R36). `media` none is ANY. `peerPort` is the relay partner of a RELAY entry. -/
structure Entry where
  declared     : EntryType
  broken       : Option BrokenCause
  peerPort     : Byte
  peerChassis  : BitVec 16
  hops         : BitVec 2
  media        : Option Media
  policy       : HandoverPolicy
  retryPolicy  : RetryPolicy
  retryClass   : BitVec 2
  nominal      : Nat
  tolerance    : Nat
  trim         : Nat
  lanes        : Nat
  soakUnits    : Nat
  skewLimit    : Nat
  threshold    : Nat
  allowance    : Nat
  deriving DecidableEq, Repr

/-- The default entry (R34). -/
def defaultEntry : Entry :=
  { declared := .unplanned, broken := none, peerPort := 0, peerChassis := 0, hops := 0, media := none,
    policy := .manual, retryPolicy := .limited, retryClass := 0, nominal := 0, tolerance := 0, trim := 0,
    lanes := 1, soakUnits := 1, skewLimit := 0, threshold := 0, allowance := 0 }

/-- A LOAD_PLAN under way (R38, R39): its header is awaited, or has passed and is held with the shadow entries
read so far and the clamps counted. -/
inductive PlanLoad where
  | header
  | entries (chassis : BitVec 16) (epoch : Byte) (shadow : List Entry) (clamps : Nat)
  deriving DecidableEq, Repr

/-- The Plan Table (R34). -/
structure PlanTable where
  entries  : Vector Entry 24
  chassis  : BitVec 16
  epoch    : Byte
  inEffect : Bool
  load     : Option PlanLoad
  deriving DecidableEq, Repr

/-- What a plan-change notice carries for its port (R42 to R45). -/
structure Notice where
  retryPolicy : Bool
  retryClass  : Bool
  typeChange  : Bool
  deriving DecidableEq, Repr

/-! ### Port context (R1) -/

/-- The fields of a VALID identity block (R64). -/
structure IdentityFields where
  media       : Media
  lanes       : Nat
  marked      : Nat
  propagation : Nat
  serial      : List Byte
  deriving DecidableEq, Repr

/-- Stored cable identity (R1, R64). -/
inductive CableIdentity where
  | none
  | valid (fields : IdentityFields)
  | missing
  | corrupt
  deriving DecidableEq, Repr

/-- Stored peer identity, from the peer's HELLO (R1, R46). -/
structure PeerIdentity where
  chassis : BitVec 16
  port    : Byte
  hops    : Byte
  epoch   : Byte
  lanes   : Nat
  deriving DecidableEq, Repr

/-- Exercise results (R1, R132). `deskew` and `skew` are absent when lane 0 is dead. -/
structure ExerciseResults where
  live   : Vector Bool 4
  skew   : Option Nat
  deskew : Option (Vector Nat 4)
  errors : Vector Nat 4
  deriving DecidableEq, Repr

/-- The port context that the snapshot shows: every field of R1 but the two persistence runs. -/
structure Context where
  state         : PortState
  lastVerdict   : Verdict
  verdictMask   : VerdictMask
  miswiredStage : MiswiredStage
  lastFault     : FaultCode
  retryCounter  : Nat
  retryFull     : Bool
  flags         : BitVec 15
  cable         : CableIdentity
  peer          : Option PeerIdentity
  length        : Option Nat
  armed         : Bool
  inhibited     : Bool
  stallCount    : Nat
  heldExerciser : Option ExerciserId
  results       : Option ExerciseResults
  nbe           : Nat
  fbe           : Nat
  lapseCount    : Nat
  relayDrops    : Nat
  windowCount   : Nat
  lastScanKind  : Option ScanKind
  scanResult    : ScanResult
  scanPass      : Nat
  stamp         : Word
  deriving DecidableEq, Repr

/-- The port timers (R5), each a count of transmitted cycle starts while it runs; and the retry period (R139) in
milliseconds. -/
structure Timers where
  lockSearch     : Option Nat
  greet          : Option Nat
  peerDelay      : Option Nat
  peerStart      : Option Nat
  lapse          : Option Nat
  blockWindow    : Option Nat
  retryLength    : Option Nat
  retryRemaining : Option Nat
  deriving DecidableEq, Repr

/-- The on-state check (R61). -/
structure OnState where
  below : Nat
  above : Nat
  low   : Bool
  deriving DecidableEq, Repr

/-- The last off-state result (R58). -/
inductive OffResult where
  | none
  | terminated
  | openLine
  | short
  deriving DecidableEq, Repr

/-! ### Service Lane Framer (04 R71) -/

/-- Lock state (R71). -/
inductive LockState where
  | off
  | search
  | frame
  | locked
  deriving DecidableEq, Repr

/-- The transmit items of a framer whose transmitter is on. `built` is whether the frame at `index` has taken its
fields. In `history` bit 0 is the scrambled bit sent last. In `word`, `heldCrc` and `frame` the first bit sent is the
most significant. -/
structure Transmit where
  index   : Fin 8
  bit     : Fin 22
  built   : Bool
  word    : BitVec 8
  history : BitVec 15
  crc     : BitVec 8
  heldCrc : BitVec 8
  frame   : BitVec 22
  deriving DecidableEq, Repr

/-- A framer (R71). `tx` is none while the transmitter is off. Words and CRC bits have their first bit received as
most significant. `wholeCycle`: bit 21 of frame 7 is in and the cycle's end has not been taken. `markDue`: the
frame 0 being received had a good sync while LOCKED and its arrival mark has not been given (R80). -/
structure Framer where
  tx          : Option Transmit
  fbeRequest  : Bool
  lock        : LockState
  rxIndex     : Option (Fin 8)
  erroredRun  : Nat
  rxHistory   : Option (BitVec 15)
  rxCrc       : Option (BitVec 8)
  rxHeldCrc   : Option (BitVec 8)
  rxCrcBits   : BitVec 8
  wholeCycle  : Bool
  assembled   : Option (BitVec 8)
  pendingWord : Option (BitVec 8)
  effective   : Option (BitVec 8)
  markDue     : Bool
  deriving DecidableEq, Repr

/-! ### Message Channel (05 R86) -/

/-- Sender state (R86). -/
inductive SenderState where
  | idle
  | gap
  | offer
  deriving DecidableEq, Repr

/-- Receive state (R86). -/
inductive ReceiveState where
  | header
  | body
  deriving DecidableEq, Repr

/-- Whose identity a HELLO record carries: the port's own, or the one a relay leg forwards with its hops already
raised (R88, R102). -/
inductive HelloSource where
  | own
  | forwarded (identity : PeerIdentity)
  deriving DecidableEq, Repr

/-- The body of a message record (R88). -/
inductive MessageBody where
  | hello (source : HelloSource) (replyRequest : Bool)
  | delay (l2 : Nat) (unstable answer : Bool)
  deriving DecidableEq, Repr

/-- The purpose set of a record (R86). SCAN names the checks and MEASUREMENT the measurements that are to learn of
the result (log 23); an empty list is the purpose absent. -/
structure Purposes where
  greeting    : Bool
  answer      : Bool
  relay       : Bool
  scan        : List Nat
  measurement : List Nat
  deriving DecidableEq, Repr

/-- A message record (R86). -/
structure Message where
  body     : MessageBody
  purposes : Purposes
  deriving DecidableEq, Repr

/-- The fields of a received frame that the receiver compares with the next frame's (R96). -/
structure OfferSeen where
  byte  : Byte
  offer : Bool
  seq   : Bool
  deriving DecidableEq, Repr

/-- A Message Channel (R86). `onOffer`: the byte at the byte index has been supplied in a frame. `ackSeen`: K and J of
the last frame received since then (R92). -/
structure Channel where
  sender        : SenderState
  sending       : Option Message
  bytes         : List Byte
  attempt       : Nat
  byteIndex     : Nat
  offeredS      : Bool
  lastTakeS     : Bool
  onOffer       : Bool
  ackSeen       : Option (Bool × Bool)
  idleRun       : Nat
  byteTimer     : Nat
  k             : Bool
  j             : Bool
  receiver      : ReceiveState
  received      : List Byte
  remaining     : Nat
  lastFrame     : Option OfferSeen
  rxIdleRun     : Nat
  queue         : List Message
  deriving DecidableEq, Repr

/-! ### Delay Meter (06 R107) -/

/-- Pair phase (R107). -/
inductive PairPhase where
  | idle
  | plus
  | minus
  deriving DecidableEq, Repr

/-- A job's progress marks (R108) and the measurement it takes or took part in (log 23). -/
structure Job where
  measured    : Bool
  delivered   : Bool
  record      : Bool
  measurement : Nat
  deriving DecidableEq, Repr

/-- A DELAY as received (R98, R107). -/
structure DelayRecord where
  l2       : Nat
  trim     : Nat
  unstable : Bool
  answer   : Bool
  deriving DecidableEq, Repr

/-- A Delay Meter (R107). `biasMinus` is the detector bias. -/
structure Meter where
  measureJob    : Option Job
  legJob        : Option Job
  scanJob       : Option Job
  answerJob     : Option Job
  phase         : PairPhase
  pairNumber    : Option Nat
  biasMinus     : Bool
  lp            : Option Nat
  lm            : Option Nat
  spread        : Option Int
  ownL2         : Option Nat
  peerRecord    : Option DelayRecord
  lastR2        : Option Nat
  lastN2        : Option Nat
  scanWait      : Nat
  measurementNo : Nat
  deriving DecidableEq, Repr

/-- A port: its context, and what its blocks hold for it. -/
structure Port where
  ctx            : Context
  notReadyRun    : Nat
  followRun      : Nat
  ready          : Bool
  handover       : Bool
  selectorCode   : Option ExerciserId
  helloDelivered : Bool
  helloHeard     : Bool
  timers         : Timers
  farOpenCause   : Bool
  degradedCause  : Bool
  onState        : OnState
  offResult      : OffResult
  offActivity    : Bool
  framer         : Framer
  channel        : Channel
  meter          : Meter
  notices        : List Notice
  deriving DecidableEq, Repr

/-! ### Exerciser Pool (07 R120) -/

/-- Lane checker states (R126); a stopped checker belongs to a dead lane or to no lane under test. -/
inductive CheckerState where
  | stopped
  | search
  | proving (run : Nat)
  | locked
  deriving DecidableEq, Repr

/-- A lane checker (R126, R127): its predictor holds the 23 bits up to the last one predicted, `position` is the number of bits received
since the last marker, and the arrivals are UI counts, the latest first. -/
structure Checker where
  state     : CheckerState
  predictor : BitVec 23
  position  : Nat
  arrivals  : List Nat
  errors    : Nat
  deriving DecidableEq, Repr

/-- Grant phases (R120). -/
inductive GrantPhase where
  | start
  | training
  | soak
  deriving DecidableEq, Repr

/-- A grant record (R120); `patternOn`: the port's first cycle start after the grant has restarted the pattern (R125). -/
structure Grant where
  port       : PortId
  lanes      : Nat
  phase      : GrantPhase
  phaseCount : Nat
  peerStop   : Nat
  soakLength : Nat
  units      : Nat
  patternOn  : Bool
  checkers   : Vector Checker 4
  deriving DecidableEq, Repr

/-- The Exerciser Pool (R120, R121, R123). An exerciser with no grant is free. -/
structure Pool where
  owners   : Vector (Option Grant) 4
  queue    : List PortId
  requests : List PortId
  deriving DecidableEq, Repr

/-- The lane selector load (R124): the codes being shifted, a change not yet loaded, the codes at the last strobe. -/
structure Selector where
  loading       : Option (Vector (Option ExerciserId) 24)
  changePending : Bool
  strobed       : Option (Vector (Option ExerciserId) 24)
  deriving DecidableEq, Repr

/-! ### Identity Reader (03 R66) -/

/-- Reader states (R66). -/
inductive ReaderPhase where
  | idle
  | settle
  | transfer
  | retryGap
  | guardTime
  deriving DecidableEq, Repr

/-- The read in service (R66 to R69); the byte index is the number of data bytes taken. -/
structure ReadInService where
  port      : PortId
  attempt   : Nat
  addressed : Nat
  data      : List Byte
  aborting  : Bool
  deriving DecidableEq, Repr

/-- What the reader puts on the identity bus (R67 to R69): a start, a stop, the memory address with its direction, the offset byte, and
the acknowledge bit after a data byte. -/
inductive BusSign where
  | start
  | stop
  | address (memory : BitVec 7) (read : Bool)
  | offset (b : Byte)
  | acknowledge
  | noAcknowledge
  deriving DecidableEq, Repr

/-- The Identity Reader and the Identity Queue (R65, R66). -/
structure IdentityReader where
  phase   : ReaderPhase
  service : Option ReadInService
  queue   : List PortId
  deriving DecidableEq, Repr

/-! ### Presence Watch (03 R54) -/

/-- Watch modes (R54). -/
inductive WatchMode where
  | off
  | event
  | matching
  deriving DecidableEq, Repr

/-- The Presence Watch (R54); a 1 in `ignore` is a port that is ignored. -/
structure Watch where
  mode     : WatchMode
  ignore   : PortMask
  compare  : PortMask
  snapshot : PortMask
  held     : Bool
  deriving DecidableEq, Repr

/-! ### Scan Scheduler (09 R152) -/

/-- A Scan List entry (R152, R154): a skip entry, or a port and a kind. -/
inductive ScanEntry where
  | skip
  | check (port : PortId) (kind : ScanKind)
  deriving DecidableEq, Repr

/-- Scan states (R152). -/
inductive ScanState where
  | idle
  | running
  | draining
  deriving DecidableEq, Repr

/-- Scan modes (R152). -/
inductive ScanMode where
  | singlePass
  | continuous
  deriving DecidableEq, Repr

/-- Start sources (R152). -/
inductive StartSource where
  | order
  | watchMatch
  | immediate
  deriving DecidableEq, Repr

/-- Stop sources (R152). -/
inductive StopSource where
  | order
  | passes (limit : Nat)
  | eventThen (drain : Nat)
  deriving DecidableEq, Repr

/-- The in-flight check (R152, R159, R161); `number` tells it from earlier checks (log 23). -/
structure InFlight where
  index     : Nat
  port      : PortId
  kind      : ScanKind
  pass      : Nat
  number    : Nat
  replyWait : Nat
  deriving DecidableEq, Repr

/-- A SCAN_SETUP under way (R153, R154): its arguments, the entries read so far, and its counts. -/
structure ScanSetup where
  count   : Nat
  mode    : ScanMode
  start   : StartSource
  stop    : StopSource
  period  : Nat
  entries : List ScanEntry
  invalid : Nat
  clamps  : Nat
  deriving DecidableEq, Repr

/-- The Scan Scheduler (R152). -/
structure Scheduler where
  list      : List ScanEntry
  pointer   : Nat
  state     : ScanState
  mode      : ScanMode
  start     : StartSource
  stop      : StopSource
  period    : Nat
  pacerOn   : Bool
  elapsed   : Nat
  passes    : Nat
  overruns  : Nat
  postStop  : Nat
  inFlight  : Option InFlight
  setup     : Option ScanSetup
  checkNo   : Nat
  deriving DecidableEq, Repr

/-! ### Work Area Interface (10) -/

/-- The fifteen order kinds (R189). -/
inductive OrderKind where
  | loadPlan
  | planPatch
  | restart
  | hold
  | release
  | delatch
  | clearRetries
  | clearFlags
  | handover
  | withdraw
  | watchSetup
  | scanSetup
  | scanStart
  | scanStop
  | report
  deriving DecidableEq, Repr

/-- Outcomes (R189). -/
inductive OrderOutcome where
  | ok
  | badKind
  | badArg
  | badState
  | memoryFault
  deriving DecidableEq, Repr

/-- How far an order in progress is: handed to its block, taken by the block and timed, or a captured report being
written to `target` (R172, R175). -/
inductive OrderStage where
  | handed
  | working
  | reporting (target : Address) (port : PortId) (bytes : List Byte)
  deriving DecidableEq, Repr

/-- An order in progress (R172 to R174). `address` is that of its record, which the part writes whatever ANCHOR holds since (R166).
`waiting`: masked ports that have not taken it. -/
structure Order where
  kind    : OrderKind
  address : Address
  notify  : Bool
  record  : BitVec 512
  waiting : PortMask
  applied : PortMask
  stage   : OrderStage
  deriving DecidableEq, Repr

/-- What a FETCHING walker is at: the link read, the record read, or the TAKEN write (R170, R172). -/
inductive FetchPhase where
  | link
  | record (addr : Address)
  | take (addr : Address) (record : BitVec 512)
  deriving DecidableEq, Repr

/-- The walker (R168): IDLE holds its walk timer in milliseconds; FETCHING whether RUN has been written 0 since the
read began (R170). -/
inductive Walker where
  | stopped
  | idle (elapsed : Nat)
  | fetching (phase : FetchPhase) (discard : Bool)
  | acting (order : Order)
  | stopping (order : Order)
  | halted
  deriving DecidableEq, Repr

/-- Last work fault cause (R168). -/
inductive WorkFaultCause where
  | none
  | badLink
  | staleLink
  | memory
  deriving DecidableEq, Repr

/-- An item of the status page (R181). -/
inductive PageItem where
  | header
  | snapshot (port : PortId)
  deriving DecidableEq, Repr

/-- The write of one item in progress, at the page base it began with (R180, R181). -/
structure PageWrite where
  item : PageItem
  base : Address
  deriving DecidableEq, Repr

/-- The page writer (R180). -/
structure PageWriter where
  dirty         : PortMask
  headerMark    : Bool
  lastPort      : Option PortId
  lastWasHeader : Bool
  versions      : Vector Word 24
  headerVersion : Word
  stopped       : Bool
  busy          : Option PageWrite
  deriving DecidableEq, Repr

/-- The message-signalled interrupt capability of the function (R183). -/
structure MsiCapability where
  enabled : Bool
  address : Address
  data    : BitVec 16
  deriving DecidableEq, Repr

/-- What the block has issued on the bus: a write of consecutive bytes, or the interrupt write (R172, R183). -/
inductive Issued where
  | write (addr : Address) (bytes : List Byte)
  | interrupt (addr : Address) (data : BitVec 16)
  deriving DecidableEq, Repr

end Sys2Proof.Machine

namespace Sys2Proof.Machine

/-- The state of the block. `accessesFrom` is how much of `issued` had been issued when a cold reset last stopped every access in progress
(R178): an error may still come for what was issued after (R176, log 8). -/
structure State where
  pending       : List Instr
  run           : Bool
  irqEn         : Bool
  anchor        : Address
  pageLow       : Word
  pageBase      : Address
  summary       : BitVec 6
  summaryEnable : BitVec 6
  msi           : MsiCapability
  walker        : Walker
  lastWorkFault : WorkFaultCause
  page          : PageWriter
  plan          : PlanTable
  ports         : Vector Port 24
  samplePeriod  : Nat
  sampleElapsed : Nat
  raw           : PortMask
  debounced     : PortMask
  watch         : Watch
  reader        : IdentityReader
  identityBus   : List BusSign
  pool          : Pool
  selector      : Selector
  scan          : Scheduler
  ms            : Word
  issued        : List Issued
  accessesFrom  : Nat
  free          : Nat
  deriving DecidableEq, Repr

/-! ### Cold reset values -/

/-- The context of R1 after cold reset. -/
def resetContext : Context :=
  { state := .dormant, lastVerdict := .none, verdictMask := ⟨false, false, false, false⟩, miswiredStage := .none,
    lastFault := .none, retryCounter := 0, retryFull := false, flags := 0, cable := .none, peer := none, length := none,
    armed := false, inhibited := false, stallCount := 0, heldExerciser := none, results := none, nbe := 0, fbe := 0,
    lapseCount := 0, relayDrops := 0, windowCount := 0, lastScanKind := none, scanResult := .none, scanPass := 0,
    stamp := 0 }

/-- Every timer stopped (R5, R139). -/
def resetTimers : Timers :=
  { lockSearch := none, greet := none, peerDelay := none, peerStart := none, lapse := none, blockWindow := none,
    retryLength := none, retryRemaining := none }

/-- The framer after cold reset, and with its transmitter off (R71, R84). -/
def resetFramer : Framer :=
  { tx := none, fbeRequest := false, lock := .off, rxIndex := none, erroredRun := 0, rxHistory := none, rxCrc := none,
    rxHeldCrc := none, rxCrcBits := 0, wholeCycle := false, assembled := none, pendingWord := none, effective := none,
    markDue := false }

/-- The channel after cold reset (R86). -/
def resetChannel : Channel :=
  { sender := .idle, sending := none, bytes := [], attempt := 1, byteIndex := 0, offeredS := false, lastTakeS := false,
    onOffer := false, ackSeen := none, idleRun := 0, byteTimer := 0, k := false, j := false, receiver := .header,
    received := [], remaining := 0, lastFrame := none, rxIdleRun := 0, queue := [] }

/-- The meter after cold reset (R107). -/
def resetMeter : Meter :=
  { measureJob := none, legJob := none, scanJob := none, answerJob := none, phase := .idle, pairNumber := none,
    biasMinus := false, lp := none, lm := none, spread := none, ownL2 := none, peerRecord := none, lastR2 := none,
    lastN2 := none, scanWait := 0, measurementNo := 0 }

/-- A port after cold reset. -/
def resetPort : Port :=
  { ctx := resetContext, notReadyRun := 0, followRun := 0, ready := false, handover := false, selectorCode := none,
    helloDelivered := false, helloHeard := false, timers := resetTimers, farOpenCause := false, degradedCause := false,
    onState := ⟨0, 0, false⟩, offResult := .none, offActivity := false, framer := resetFramer, channel := resetChannel,
    meter := resetMeter, notices := [] }

/-- The page writer after cold reset (R180). -/
def resetPage : PageWriter :=
  { dirty := 0xFFFFFF, headerMark := true, lastPort := none, lastWasHeader := false, versions := Vector.replicate 24 0,
    headerVersion := 0, stopped := false, busy := none }

/-- The Plan Table after cold reset (R34). -/
def resetPlan : PlanTable :=
  { entries := Vector.replicate 24 defaultEntry, chassis := 0, epoch := 0, inEffect := false, load := none }

/-- The Scan Scheduler after cold reset and after warm reset (R152). -/
def resetScheduler : Scheduler :=
  { list := [], pointer := 0, state := .idle, mode := .singlePass, start := .order, stop := .order, period := 1,
    pacerOn := false, elapsed := 0, passes := 0, overruns := 0, postStop := 0, inFlight := none, setup := none,
    checkNo := 0 }

/-- The lane selector as cold reset ends: one load of none for every port is being shifted out (R120, R124). -/
def resetSelector : Selector :=
  { loading := some (Vector.replicate 24 none), changePending := false, strobed := none }

/-- The block right after cold reset, with no command waiting. -/
def State.reset : State :=
  { pending := [], run := false, irqEn := false, anchor := 0, pageLow := 0, pageBase := 0, summary := 0,
    summaryEnable := 0, msi := ⟨false, 0, 0⟩, walker := .stopped, lastWorkFault := .none, page := resetPage,
    plan := resetPlan, ports := Vector.replicate 24 resetPort, samplePeriod := 1, sampleElapsed := 0, raw := 0,
    debounced := 0, watch := ⟨.off, 0, 0, 0, false⟩, reader := ⟨.idle, none, []⟩, identityBus := [],
    pool := ⟨Vector.replicate 4 none, [], []⟩, selector := resetSelector, scan := resetScheduler, ms := 0, issued := [],
    accessesFrom := 0, free := 0 }

end Sys2Proof.Machine
end

