-- ==== Sys2Proof/Machine/Ops.lean ====
section
/-! DEFINITION. The named operations over State that every command is built from: ports and contexts, the dirty set,
SUMMARY and the interrupt, the walker, and the completion of an order. -/

namespace Sys2Proof.Machine

/-! ### Ports and masks -/

/-- The 24 ports in ascending order. -/
def allPorts : List PortId :=
  [0, 1, 2, 3, 4, 5, 6, 7, 8, 9, 10, 11, 12, 13, 14, 15, 16, 17, 18, 19, 20, 21, 22, 23]

/-- The four exercisers in ascending order. -/
def allExercisers : List ExerciserId := [0, 1, 2, 3]

/-- Bit n of a port mask stands for port n. -/
def maskHas (m : PortMask) (p : PortId) : Bool := m.getLsbD p.val

/-- The mask of one port. -/
def portBit (p : PortId) : PortMask := 1#24 <<< p.val

/-- A saturating count (00_scope.md section 7): it stops at its stated maximum. -/
def satInc (max n : Nat) : Nat := if n < max then n + 1 else n

/-- Does `f` for each port of `ps` in turn. -/
def forPorts (ps : List PortId) (f : PortId → State → State) (s : State) : State :=
  ps.foldl (fun t p => f p t) s

def State.port (s : State) (p : PortId) : Port := s.ports[p]

def State.setPort (s : State) (p : PortId) (x : Port) : State := { s with ports := s.ports.set p x }

def State.updPort (s : State) (p : PortId) (f : Port → Port) : State := s.setPort p (f (s.port p))

/-- The port context of R1. -/
def State.ctx (s : State) (p : PortId) : Context := (s.port p).ctx

/-- The state a port is in. -/
def State.portState (s : State) (p : PortId) : PortState := (s.ctx p).state

/-! ### The dirty set and the header mark (R180) -/

def State.markDirty (s : State) (p : PortId) : State :=
  { s with page := { s.page with dirty := s.page.dirty ||| portBit p } }

def State.markHeader (s : State) : State := { s with page := { s.page with headerMark := true } }

/-- The header and all 24 snapshots are marked dirty (R176, R177, R180). -/
def State.markWholePage (s : State) : State :=
  { s with page := { s.page with dirty := 0xFFFFFF, headerMark := true } }

/-- A change to a port context: a change of a field shown in the snapshot marks the port dirty (R2). -/
def State.updCtx (s : State) (p : PortId) (f : Context → Context) : State :=
  if f (s.ctx p) = s.ctx p then s
  else (s.updPort p fun x => { x with ctx := f x.ctx }).markDirty p

/-! ### SUMMARY and the interrupt (R182, R183) -/

/-- The bit positions of R194. -/
def SummaryBit.index : SummaryBit → Nat
  | .orderDone => 0
  | .portChange => 1
  | .presence => 2
  | .watchMatch => 3
  | .scanPass => 4
  | .workFault => 5

def SummaryBit.mask (b : SummaryBit) : BitVec 6 := 1#6 <<< b.index

/-- The set of SUMMARY bits that are also enabled is non-empty (R183). -/
def State.enabledSummary (s : State) : Bool := s.summary &&& s.summaryEnable != 0

/-- Sends the interrupt write, behind every write issued before; with IRQ_EN 0, or with the capability disabled, nothing
is sent or held (R183). -/
def State.sendInterrupt (s : State) : State :=
  if s.irqEn && s.msi.enabled then { s with issued := s.issued ++ [.interrupt s.msi.address s.msi.data] } else s

/-- An event sets a SUMMARY bit (R182); the interrupt is sent when the enabled set goes from empty to non-empty (R183). -/
def State.setSummary (s : State) (b : SummaryBit) : State :=
  let t := { s with summary := s.summary ||| b.mask }
  if !s.enabledSummary && t.enabledSummary then t.sendInterrupt else t

/-- The test of R183 after a write to SUMMARY, SUMMARY_ENABLE or IRQ_EN. -/
def State.testInterrupt (s : State) : State := if s.enabledSummary then s.sendInterrupt else s

/-! ### Work Area writes -/

/-- Issues a write of consecutive bytes to the Work Area. -/
def State.issue (s : State) (addr : Address) (bytes : List Byte) : State :=
  { s with issued := s.issued ++ [.write addr bytes] }

/-- What has been issued since cold reset last stopped every access (R176, R178). -/
def State.posted (s : State) : List Issued := s.issued.drop s.accessesFrom

/-- The `n` bytes of a number, least significant first (00_scope.md section 7: Work Area fields are little-endian). -/
def leBytes : Nat → Nat → List Byte
  | 0, _ => []
  | n + 1, v => BitVec.ofNat 8 v :: leBytes n (v / 256)

/-! ### Plan entries in effect -/

def State.entry (s : State) (p : PortId) : Entry := s.plan.entries[p]

/-- The effective type (R36): UNPLANNED for a BROKEN entry. -/
def Entry.effective (e : Entry) : EntryType :=
  match e.broken with
  | some _ => .unplanned
  | none => e.declared

/-- Whether the port's entry is of type RELAY (R25). -/
def State.isRelay (s : State) (p : PortId) : Bool := (s.entry p).effective == .relay

/-- A number as a port, where it is one. -/
def asPort (b : Byte) : Option PortId := if h : b.toNat < 24 then some ⟨b.toNat, h⟩ else none

/-- The relay partner of a port whose entry is of type RELAY (R36, R37). -/
def State.partner (s : State) (p : PortId) : Option PortId :=
  if s.isRelay p then asPort (s.entry p).peerPort else none

/-! ### The walker (R168 to R172) -/

/-- The walker state codes of R190. -/
def Walker.code : Walker → Nat
  | .stopped => 0
  | .idle _ => 1
  | .fetching _ _ => 2
  | .acting _ => 3
  | .stopping _ => 4
  | .halted => 5

/-- A change of walker state marks the header dirty (R168). -/
def State.setWalker (s : State) (w : Walker) : State :=
  if w.code = s.walker.code then { s with walker := w } else { s with walker := w }.markHeader

/-- A re-read moment that acts (R169): the walker reads the anchor's link; with the anchor at 0 it reads nothing and rests in
IDLE with the walk timer restarted. -/
def State.startFetch (s : State) : State :=
  if s.anchor = 0 then s.setWalker (.idle 0) else s.setWalker (.fetching .link false)

/-- The order in progress, in ACTING or STOPPING (R168). -/
def Walker.order? : Walker → Option Order
  | .acting o => some o
  | .stopping o => some o
  | _ => none

/-- Replaces the order in progress. -/
def Walker.withOrder (w : Walker) (o : Order) : Walker :=
  match w with
  | .acting _ => .acting o
  | .stopping _ => .stopping o
  | w => w

/-- The order of kind `k` that has been handed to its block and not yet been taken (R172 step 3). -/
def State.handedOrder (s : State) (k : OrderKind) : Option Order :=
  match s.walker.order? with
  | some o => if o.kind = k ∧ o.stage = .handed then some o else none
  | none => none

def State.setOrder (s : State) (o : Order) : State := { s with walker := s.walker.withOrder o }

/-- A work fault (R171, R176): SUMMARY.WORK_FAULT, the cause, and HALTED. -/
def State.workFault (s : State) (c : WorkFaultCause) : State :=
  (({ s with lastWorkFault := c }.markHeader).setWalker .halted).setSummary .workFault

/-- The outcome codes of R189. -/
def OrderOutcome.code : OrderOutcome → Byte
  | .ok => 1
  | .badKind => 2
  | .badArg => 3
  | .badState => 4
  | .memoryFault => 5

/-- The kinds whose report fields the part writes (R172, R189). -/
def OrderKind.hasReport : OrderKind → Bool
  | .loadPlan => true
  | .planPatch => true
  | .scanSetup => true
  | _ => false

/-- Steps 4 to 6 of R172 and what follows: the outcome byte, the applied mask (bits 24 to 31 as 0, R185) and the report
fields are issued into the order's record, then DONE, then ORDER_DONE where NOTIFY is set; the walker re-reads from ACTING and
stops from STOPPING. `report` is none for a kind without report fields. -/
def State.completeOrder (s : State) (o : Order) (outcome : OrderOutcome) (applied : PortMask)
    (report : Option (Byte × Byte)) : State :=
  let a := o.address
  let s := s.issue (a + 10) [outcome.code]
  let s := s.issue (a + 20) (leBytes 4 applied.toNat)
  let s := match report with
    | some (x, y) => s.issue (a + 56) [x, y]
    | none => s
  let s := s.issue (a + 9) [2]
  let s := if o.notify then s.setSummary .orderDone else s
  match s.walker with
  | .acting _ => s.startFetch
  | _ => s.setWalker .stopped

/-- An order ends refused (R173): applied mask 0. What the report fields of a refused order hold is not stated: free
values (log 16). -/
def State.refuseOrder (s : State) (o : Order) (outcome : OrderOutcome) : State :=
  if o.kind.hasReport then
    { s with free := s.free + 2 }.completeOrder o outcome 0
      (some (Config.freeByte s.free, Config.freeByte (s.free + 1)))
  else s.completeOrder o outcome 0 none

end Sys2Proof.Machine
end

