-- ==== Sys2Proof/Machine/Framing.lean ====
section
/-! DEFINITION. Bits on the service lane: status words, the scrambler, the CRC, frames (R70 to R83), and the exercise
pattern (R125). In every value here the first bit sent is the most significant. -/

namespace Sys2Proof.Machine

/-! ### Status words (R70, R186) -/

def wordStage (w : BitVec 8) : Nat := (w.extractLsb' 4 4).toNat
def wordReady (w : BitVec 8) : Bool := w.getLsbD 3
def wordFbe (w : BitVec 8) : Bool := w.getLsbD 2
def wordTrain (w : BitVec 8) : Bool := w.getLsbD 1
def wordRelayed (w : BitVec 8) : Bool := w.getLsbD 0

/-- A status word from its fields (R70). -/
def statusWord (stage : Nat) (ready fbe train relayed : Bool) : BitVec 8 :=
  BitVec.ofNat 4 stage ++ BitVec.ofBool ready ++ BitVec.ofBool fbe ++ BitVec.ofBool train ++ BitVec.ofBool relayed

/-- A stage code in 4 to 11, the codes in which a KC2440 transmits (R17, R83). -/
def stageKnown (stage : Nat) : Bool := 4 ≤ stage && stage ≤ 11

/-- The follow set: LISTEN, GREET, MEASURE, EXERCISE and MISWIRED (R17). -/
def inFollowSet (stage : Nat) : Bool := stage == 4 || stage == 5 || stage == 6 || stage == 7 || stage == 10

/-- A word that counts in the not-ready run (R17). -/
def wordNotReady (w : BitVec 8) : Bool := !wordReady w || !stageKnown (wordStage w)

/-- A word on which a QUALIFIED port may hand over: READY 1 with stage QUALIFIED or HANDED (R18). -/
def wordOffersHandover (w : BitVec 8) : Bool := wordReady w && (wordStage w == 8 || wordStage w == 9)

/-- A word that opens a window: stage EXERCISE with TRAIN 1 (R129). -/
def wordOpensWindow (w : BitVec 8) : Bool := wordStage w == 7 && wordTrain w

/-! ### Scrambler (R74) -/

/-- The bits of a value, first sent first. -/
def bitsOf {n : Nat} (w : BitVec n) : List Bool := (List.range n).map fun i => w.getMsbD i

/-- A value from its bits, first sent first. -/
def ofBits (n : Nat) (bs : List Bool) : BitVec n := bs.foldl (fun acc b => (acc <<< 1) ||| (if b then 1 else 0)) 0

/-- A history of 15 scrambled bits with one more: bit 0 is the last sent or received. -/
def pushHistory (h : BitVec 15) (y : Bool) : BitVec 15 := (h <<< 1) ||| (if y then 1 else 0)

/-- The two taps of x^15 + x^10 + 1: the bits 10 and 15 positions earlier. -/
def scrambleTap (h : BitVec 15) : Bool := h.getLsbD 9 ^^ h.getLsbD 14

/-- Scrambles plain bits: the line bits and the new history. -/
def scramble (h : BitVec 15) : List Bool → List Bool × BitVec 15
  | [] => ([], h)
  | x :: xs =>
    let y := x ^^ scrambleTap h
    let r := scramble (pushHistory h y) xs
    (y :: r.1, r.2)

/-- Descrambles line bits: the plain bits and the new history. -/
def descramble (h : BitVec 15) : List Bool → List Bool × BitVec 15
  | [] => ([], h)
  | y :: ys =>
    let r := descramble (pushHistory h y) ys
    ((y ^^ scrambleTap h) :: r.1, r.2)

/-! ### CRC-8 (R81) -/

/-- One bit into the CRC register, generator 0xD5, most significant bit first. -/
def crcStep (r : BitVec 8) (b : Bool) : BitVec 8 := (r <<< 1) ^^^ (if r.getLsbD 7 ^^ b then 0xD5 else 0)

def crcBits (r : BitVec 8) (bs : List Bool) : BitVec 8 := bs.foldl crcStep r

/-- The preset of the register before the first covered bit of each cycle. -/
def crcPreset : BitVec 8 := 0xFF

/-! ### Frames (R70, R72) -/

/-- The sync word of frame `i`: 0x47 in frame 0, 0xB8 in frames 1 to 7. -/
def syncWord (i : Fin 8) : Byte := if i = 0 then 0x47 else 0xB8

/-- Either sync word, as the search and the FRAME state take it (R75, R76). -/
def isSync (b : Byte) : Bool := b == 0xB8 || b == 0x47

/-- Bits 8 to 20 of a frame as they are before scrambling: what the CRC covers (R81). -/
def coveredBits (byte : Byte) (o s k j status : Bool) : List Bool := bitsOf byte ++ [o, s, k, j, status]

/-- A transmit side that has just turned on (R72): frame 0, bit 0, history all ones, held CRC 0. -/
def transmitOn : Transmit :=
  { index := 0, bit := 0, built := false, word := 0, history := 0x7FFF, crc := crcPreset, heldCrc := 0, frame := 0 }

/-- The transmit side at a cycle start: frame 0 with the cycle's status word, the CRC register preset (R72, R81). -/
def Transmit.startCycle (t : Transmit) (word : BitVec 8) : Transmit :=
  { t with index := 0, bit := 0, built := false, word, crc := crcPreset }

/-- The frame that starts: the one at the index where its fields have not been taken, else the next. -/
def Transmit.nextIndex (t : Transmit) : Fin 8 := if t.built then t.index + 1 else t.index

/-- The transmit side at a frame start with the channel's fields (R72): the frame is built from its four sources, bits 8 to
21 are scrambled, the CRC register takes bits 8 to 20, and frame 7 moves the register to the held CRC. -/
def Transmit.startFrame (t : Transmit) (byte : Byte) (o s k j : Bool) : Transmit :=
  let i := t.nextIndex
  let covered := coveredBits byte o s k j (t.word.getMsbD i.val)
  let line := scramble t.history (covered ++ [t.heldCrc.getMsbD i.val])
  let crc := crcBits t.crc covered
  { t with index := i, bit := 0, built := true, history := line.2, crc,
           heldCrc := if i = 7 then crc else t.heldCrc,
           frame := syncWord i ++ ofBits 14 line.1 }

/-- The 52 bits of the search hold three sync words 22 bits apart (R75). -/
def threeSyncs (b : BitVec 52) : Bool :=
  isSync (b.extractLsb' 44 8) && isSync (b.extractLsb' 22 8) && isSync (b.extractLsb' 0 8)

/-- The descrambler history that frame lock loads: the last 15 of the 28 scrambled bits between the syncs (R75). -/
def lockHistory (b : BitVec 52) : BitVec 15 := BitVec.setWidth 15 ((b.extractLsb' 30 14) ++ (b.extractLsb' 8 14))

/-- The framer's receive side at frame lock (R75). -/
def Framer.frameLocked (f : Framer) (b : BitVec 52) : Framer :=
  { f with lock := .frame, erroredRun := 0, rxHistory := some (lockHistory b) }

/-- The framer at cycle lock (R77). -/
def Framer.cycleLocked (f : Framer) : Framer :=
  { f with lock := .locked, rxIndex := some 0, erroredRun := 0, rxCrc := some crcPreset, rxHeldCrc := none, rxCrcBits := 0,
           wholeCycle := false, assembled := some 0, pendingWord := none, effective := none, markDue := false }

/-- The framer when lock is lost: SEARCH with an empty history (R75, R78). -/
def Framer.lockDropped (f : Framer) : Framer :=
  { f with lock := .search, rxIndex := none, erroredRun := 0, rxHistory := none, rxCrc := none, rxHeldCrc := none,
           rxCrcBits := 0, wholeCycle := false, assembled := none, pendingWord := none, effective := none,
           markDue := false }

/-- The framer with its transmitter just turned on (R72, R84): SEARCH, the FBE request clear. -/
def Framer.turnedOn (f : Framer) : Framer :=
  { f.lockDropped with tx := some transmitOn, fbeRequest := false }

/-- A good sync, by the lock state and the frame expected (R76). -/
def syncGood (lock : LockState) (i : Fin 8) (b : Byte) : Bool :=
  match lock with
  | .frame => isSync b
  | .locked => b == syncWord i
  | _ => false

/-- Sets bit `i` of a word whose bit 0 is the first received. -/
def setBitAt (w : BitVec 8) (i : Fin 8) (b : Bool) : BitVec 8 :=
  if b then w ||| (0x80#8 >>> i.val) else w &&& ~~~(0x80#8 >>> i.val)

/-- The plain fields of a received frame (R79). -/
structure FrameFields where
  byte : Byte
  o : Bool
  s : Bool
  k : Bool
  j : Bool
  deriving DecidableEq, Repr

/-- The fields of 14 plain bits 8 to 21. -/
def fieldsOf (plain : List Bool) : FrameFields :=
  { byte := ofBits 8 (plain.take 8), o := plain.getD 8 false, s := plain.getD 9 false, k := plain.getD 10 false,
    j := plain.getD 11 false }

/-- The framer after the 14 line bits of a frame, in LOCKED (R79, R81): history, CRC over bits 8 to 20, the status bit and
the CRC bit of frame `i`. -/
def Framer.takePlain (f : Framer) (i : Fin 8) (plain : List Bool) (h : BitVec 15) : Framer :=
  { f with rxHistory := some h, rxCrc := f.rxCrc.map fun r => crcBits r (plain.take 13),
           assembled := f.assembled.map fun w => setBitAt w i (plain.getD 12 false),
           rxCrcBits := setBitAt f.rxCrcBits i (plain.getD 13 false),
           wholeCycle := f.wholeCycle || i == 7 }

/-- Steps 2 and 3 of R81 at a received cycle's end: the assembled word is pending, the CRC formed is held, and the next cycle
begins. -/
def Framer.endCycle (f : Framer) : Framer :=
  { f with pendingWord := f.assembled, rxHeldCrc := f.rxCrc, rxCrc := some crcPreset, assembled := some 0,
           rxCrcBits := 0, wholeCycle := false }

/-! ### The exercise pattern (R125) -/

/-- The seed of each lane. -/
def laneSeed (i : LaneId) : BitVec 23 :=
  match i.val with
  | 0 => 0x4C3A91
  | 1 => 0x1B7E05
  | 2 => 0x62D4F8
  | _ => 0x35A06C

/-- The bits of one run: a cycle of the service lane (R125). -/
def runBits : Nat := 450560

/-- The bit that follows the last 23 of a run: the XOR of the bits sent 18 and 23 positions earlier. -/
def patternNext (w : BitVec 23) : Bool := w.getLsbD 17 ^^ w.getLsbD 22

/-- The last 23 bits of a sequence, with one more. -/
def shiftIn (w : BitVec 23) (b : Bool) : BitVec 23 := (w <<< 1) ||| (if b then 1 else 0)

/-- The last 23 bits of a run on lane `i` once `n` bits have followed the seed. -/
def patternWord (i : LaneId) : Nat → BitVec 23
  | 0 => laneSeed i
  | n + 1 => shiftIn (patternWord i n) (patternNext (patternWord i n))

/-- Bit `n` of a run on lane `i`, counted from the restart: the seed, most significant bit first, then the XOR. -/
def patternBit (i : LaneId) (n : Nat) : Bool :=
  if n < 23 then (laneSeed i).getMsbD n else (patternWord i (n - 22)).getLsbD 0

/-- Bit `n` since the last cycle start of the owning port, on lane `i` of a grant; none is electrical idle: above the lanes under test,
and until the first cycle start after the grant (R125). -/
def Grant.laneSends (g : Grant) (i : LaneId) (n : Nat) : Option Bool :=
  if i.val < g.lanes ∧ g.patternOn then some (patternBit i n) else none

/-- Bit `n` since the owning port's last cycle start that an exerciser sends on a lane; a free exerciser sends none (R122, R125). -/
def State.laneOutput (s : State) (e : ExerciserId) (i : LaneId) (n : Nat) : Option Bool :=
  match s.pool.owners[e] with
  | some g => g.laneSends i n
  | none => none

/-! ### Lane checkers bit by bit (R126, R127) -/

/-- The bit a checker predicts by R125: the XOR, and at a marker's own 23 bits the seed (log 14). -/
def Checker.predicted (c : Checker) (i : LaneId) : Bool :=
  if c.position + 23 < runBits then patternNext c.predictor else (laneSeed i).getMsbD (c.position + 23 - runBits)

/-- The checker one bit further: its predictor goes on from the predicted bit. -/
def Checker.follow (c : Checker) (i : LaneId) : Checker :=
  { c with predictor := shiftIn c.predictor (c.predicted i), position := c.position + 1 }

/-- The checker after received bits that all equal their predictions, none where one differs. In PROVING each raises the run (R126). -/
def Checker.followRight (c : Checker) (i : LaneId) : List Bool → Option Checker
  | [] => some c
  | b :: bs =>
    if b = c.predicted i then
      (match c.state with
        | .proving n => { c.follow i with state := .proving (n + 1) }
        | _ => c.follow i).followRight i bs
    else none

end Sys2Proof.Machine
end

