-- ==== Sys2Proof/Machine/Operands.lean ====
section
/-! DEFINITION. What the block reads: order records, plan images, scan lists, identity blocks and messages (12). -/

namespace Sys2Proof.Machine

/-- Byte `i` of a value read from the Work Area: bits 8i+7..8i. -/
def byteAt {n : Nat} (w : BitVec n) (i : Nat) : Byte := w.extractLsb' (8 * i) 8

/-- The 8-bit sum of bytes (R63, R88). -/
def byteSum (bs : List Byte) : Byte := bs.foldl (· + ·) 0

/-- Two bytes, the first the more significant: the order of the service lane and of the identity block. -/
def beHalf (hi lo : Byte) : Nat := hi.toNat * 256 + lo.toNat

/-! ### Order records (R189) -/

def OrderKind.ofCode (b : Byte) : Option OrderKind :=
  match b.toNat with
  | 1 => some .loadPlan
  | 2 => some .planPatch
  | 3 => some .restart
  | 4 => some .hold
  | 5 => some .release
  | 6 => some .delatch
  | 7 => some .clearRetries
  | 8 => some .clearFlags
  | 9 => some .handover
  | 10 => some .withdraw
  | 11 => some .watchSetup
  | 12 => some .scanSetup
  | 13 => some .scanStart
  | 14 => some .scanStop
  | 15 => some .report
  | _ => none

def recordKind (r : BitVec 512) : Byte := byteAt r 8
def recordState (r : BitVec 512) : Byte := byteAt r 9
def recordNotify (r : BitVec 512) : Bool := (byteAt r 11).getLsbD 0
def recordMask (r : BitVec 512) : Word := r.extractLsb' 128 32
def recordAddress (r : BitVec 512) : Address := r.extractLsb' 192 64
def recordTemplate (r : BitVec 512) : BitVec 128 := r.extractLsb' 256 128
def recordSelection (r : BitVec 512) : Word := r.extractLsb' 256 32

/-- The kinds that read a port mask (R173, R175). -/
def OrderKind.readsMask : OrderKind → Bool
  | .loadPlan => false
  | .watchSetup => false
  | .scanSetup => false
  | .scanStart => false
  | .scanStop => false
  | _ => true

/-- The mask orders, which each masked port takes as an event of its own (R174). -/
def OrderKind.isMaskOrder : OrderKind → Bool
  | .restart => true
  | .hold => true
  | .release => true
  | .delatch => true
  | .clearRetries => true
  | .clearFlags => true
  | .handover => true
  | .withdraw => true
  | _ => false

/-- A mask with any bit above bit 23 (R173). -/
def maskTooWide (m : Word) : Bool := m.toNat ≥ 2 ^ 24

def toPortMask (m : Word) : PortMask := m.setWidth 24

/-- WATCH_SETUP arguments as installed (R55, R189), none where the order is refused: mode, ignore mask, compare value
and sample period. -/
def watchArguments (r : BitVec 512) : Option (WatchMode × PortMask × PortMask × Nat) :=
  let ignore : Word := r.extractLsb' 288 32
  let compare : Word := r.extractLsb' 320 32
  let period := 2 ^ ((byteAt r 33).toNat % 4)
  if maskTooWide ignore || maskTooWide compare then none
  else match (byteAt r 32).toNat with
    | 0 => some (.off, toPortMask ignore, toPortMask compare, period)
    | 1 => some (.event, toPortMask ignore, toPortMask compare, period)
    | 2 => some (.matching, toPortMask ignore, toPortMask compare, period)
    | _ => none

def ScanMode.ofCode (b : Byte) : Option ScanMode :=
  match b.toNat with
  | 0 => some .singlePass
  | 1 => some .continuous
  | _ => none

def StartSource.ofCode (b : Byte) : Option StartSource :=
  match b.toNat with
  | 0 => some .order
  | 1 => some .watchMatch
  | 2 => some .immediate
  | _ => none

/-- The stop source with its limit or drain count clamped, and the clamps counted (R153). -/
def StopSource.ofCode (b arg : Byte) : Option (StopSource × Nat) :=
  match b.toNat with
  | 0 => some (.order, 0)
  | 1 => some (if arg = 0 then (.passes 1, 1) else (.passes arg.toNat, 0))
  | 2 => some (if arg.toNat > 63 then (.eventThen 63, 1) else (.eventThen arg.toNat, 0))
  | _ => none

/-- The pacer period clamped, and the clamps counted (R153). -/
def pacerPeriod (v : Nat) : Nat × Nat :=
  if v = 0 then (1, 1) else if v > 60000 then (60000, 1) else (v, 0)

/-- SCAN_SETUP arguments with nothing read yet, none where the order is refused (R153, R189). -/
def scanArguments (r : BitVec 512) : Option ScanSetup :=
  let count := (byteAt r 32).toNat
  let period := pacerPeriod (r.extractLsb' 320 32).toNat
  if (recordAddress r).toNat % 4 ≠ 0 ∨ count = 0 ∨ count > 64 then none
  else match ScanMode.ofCode (byteAt r 33), StartSource.ofCode (byteAt r 34), StopSource.ofCode (byteAt r 35) (byteAt r 36) with
    | some mode, some start, some (stop, clamps) =>
      some { count, mode, start, stop, period := period.1, entries := [], invalid := 0, clamps := clamps + period.2 }
    | _, _, _ => none

/-! ### Scan list entries (R188) -/

def ScanKind.ofCode (b : Byte) : Option ScanKind :=
  match b.toNat with
  | 1 => some .line
  | 2 => some .peer
  | 3 => some .delay
  | 4 => some .counts
  | 5 => some .expect
  | _ => none

/-- A scan list entry as loaded, and whether it counts as invalid (R154). -/
def scanEntryOf (w : Word) : ScanEntry × Bool :=
  match asPort (byteAt w 0), ScanKind.ofCode (byteAt w 1) with
  | some p, some k => (if (byteAt w 2).getLsbD 0 then .skip else .check p k, false)
  | _, _ => (.skip, true)

/-! ### Plan entries (R35, R36, R188) -/

def EntryType.ofCode (b : Byte) : Option EntryType :=
  match b.toNat with
  | 0 => some .unplanned
  | 1 => some .planned
  | 2 => some .relay
  | _ => none

/-- The media field of an entry: none for 4 to 7, else ANY (none) or a class. -/
def entryMedia (b : BitVec 3) : Option (Option Media) :=
  match b.toNat with
  | 0 => some none
  | 1 => some (some .copper)
  | 2 => some (some .active)
  | 3 => some (some .optical)
  | _ => none

def RetryPolicy.ofCode (b : BitVec 2) : Option RetryPolicy :=
  match b.toNat with
  | 0 => some .limited
  | 1 => some .unlimited
  | 2 => some .noRetry
  | _ => none

/-- Counts 1 where a field was clamped. -/
def clampCount (b : Bool) : Nat := if b then 1 else 0

/-- Whether a field of a raw entry fails under R35: the type, the media, the retry policy; the peer port of a PLANNED or
RELAY entry; the peer chassis of a PLANNED entry. -/
def entryFieldFails (raw : BitVec 128) : Bool :=
  let declared := (EntryType.ofCode (byteAt raw 0)).getD .unplanned
  let chassis : BitVec 16 := raw.extractLsb' 16 16
  (EntryType.ofCode (byteAt raw 0)).isNone || (entryMedia (raw.extractLsb' 34 3)).isNone ||
    (RetryPolicy.ofCode (raw.extractLsb' 40 2)).isNone ||
    (declared != .unplanned && (byteAt raw 1).toNat > 23) || (declared == .planned && (chassis == 0 || chassis == 0xFFFF))

/-- The number of fields of a raw entry that are clamped (R35). -/
def entryClamps (raw : BitVec 128) : Nat :=
  clampCount ((raw.extractLsb' 48 16).toNat > 4095) + clampCount ((byteAt raw 10).toNat = 0 || (byteAt raw 10).toNat > 4) +
    clampCount ((byteAt raw 11).toNat = 0) + clampCount ((byteAt raw 12).toNat > 127)

/-- A raw entry as held before the pairing check (R35, R36): a field that fails is held at its default, a field out of
its range at the nearest bound. -/
def entryOf (raw : BitVec 128) : Entry :=
  let declared := (EntryType.ofCode (byteAt raw 0)).getD .unplanned
  let port := byteAt raw 1
  let chassis : BitVec 16 := raw.extractLsb' 16 16
  { declared
    broken := if entryFieldFails raw then some .field else none
    peerPort := if declared ≠ .unplanned ∧ port.toNat > 23 then 0 else port
    peerChassis := if declared = .planned ∧ (chassis = 0 ∨ chassis = 0xFFFF) then 0 else chassis
    hops := raw.extractLsb' 32 2
    media := (entryMedia (raw.extractLsb' 34 3)).getD none
    policy := if raw.getLsbD 37 then .manual else .auto
    retryPolicy := (RetryPolicy.ofCode (raw.extractLsb' 40 2)).getD .limited
    retryClass := raw.extractLsb' 42 2
    nominal := Nat.min (raw.extractLsb' 48 16).toNat 4095
    tolerance := (byteAt raw 8).toNat
    trim := (byteAt raw 9).toNat
    lanes := Nat.max 1 (Nat.min (byteAt raw 10).toNat 4)
    soakUnits := Nat.max 1 (byteAt raw 11).toNat
    skewLimit := Nat.min (byteAt raw 12).toNat 127
    threshold := (byteAt raw 13).toNat
    allowance := (raw.extractLsb' 112 16).toNat }

/-- A plan image header that passes gives the chassis id and the epoch (R38, R188). -/
def planHeaderOf (h : BitVec 128) : Option (BitVec 16 × Byte) :=
  let chassis : BitVec 16 := h.extractLsb' 16 16
  if byteAt h 0 = 0xC7 ∧ byteAt h 1 ≠ 0 ∧ chassis ≠ 0 ∧ chassis ≠ 0xFFFF ∧ byteAt h 4 = 24 then
    some (chassis, byteAt h 1)
  else none

/-- Whether port `p`'s RELAY entry is paired (R37): its partner is another port whose entry is declared RELAY, has no FIELD
mark, and names `p`. -/
def entryPaired (es : Vector Entry 24) (p : PortId) : Bool :=
  match asPort es[p].peerPort with
  | some q => q != p && es[q].declared == .relay && es[q].broken != some .field && es[q].peerPort.toNat == p.val
  | none => false

/-- The entry of port `p` after the pairing check (R37): declared RELAY entries without a FIELD mark gain or lose PAIRING;
FIELD takes precedence (R36); entries of other declared types are untouched. -/
def pairEntry (es : Vector Entry 24) (p : PortId) : Entry :=
  if es[p].declared = .relay ∧ es[p].broken ≠ some .field then
    { es[p] with broken := if entryPaired es p then none else some .pairing }
  else es[p]

/-- The pairing check over all 24 entries (R37). -/
def pairEntries (es : Vector Entry 24) : Vector Entry 24 := Vector.ofFn fun p => pairEntry es p

/-- The number of entries marked BROKEN (R40, R41). -/
def brokenCount (es : Vector Entry 24) : Nat := (allPorts.filter fun p => es[p].broken.isSome).length

/-! ### Cable identity blocks (R63, R64, R187) -/

def Media.ofCode (b : Byte) : Option Media :=
  match b.toNat with
  | 1 => some .copper
  | 2 => some .active
  | 3 => some .optical
  | _ => none

/-- The default propagation of a media class, in ps/m (R64). -/
def Media.defaultPropagation : Media → Nat
  | .copper => 4350
  | .active => 4600
  | .optical => 4900

/-- The propagation stored for a VALID block: its figure in 3000 to 6000, else the class default (R64). -/
def storedPropagation (m : Media) (figure : Nat) : Nat :=
  if 3000 ≤ figure ∧ figure ≤ 6000 then figure else m.defaultPropagation

/-- Byte `i` of a block read. -/
def blockByte (bs : List Byte) (i : Nat) : Byte := bs.getD i 0

/-- A block read in full is judged VALID, with what is stored, or CORRUPT (R63, R64). -/
def judgeBlock (bs : List Byte) : CableIdentity :=
  let lanes := (blockByte bs 2).toNat
  match Media.ofCode (blockByte bs 1) with
  | some m =>
    if byteSum bs = 0 ∧ blockByte bs 0 = 0x3C ∧ 1 ≤ lanes ∧ lanes ≤ 4 then
      .valid { media := m, lanes, marked := beHalf (blockByte bs 3) (blockByte bs 4),
               propagation := storedPropagation m (beHalf (blockByte bs 5) (blockByte bs 6)),
               serial := (bs.drop 7).take 16 }
    else .corrupt
  | none => .corrupt

/-- The propagation figure that the length computation divides by (R64, R119). -/
def CableIdentity.propagation : CableIdentity → Nat
  | .valid f => f.propagation
  | _ => 4900

/-- The status is VALID (R47). -/
def CableIdentity.isValid : CableIdentity → Bool
  | .valid _ => true
  | _ => false

/-! ### Messages (R88, R97, R98, R186) -/

/-- The check byte that makes the 8-bit sum of the message 0 (R88). -/
def checkByte (bs : List Byte) : Byte := 0 - byteSum bs

def withCheck (bs : List Byte) : List Byte := bs ++ [checkByte bs]

def hiByte (v : Nat) : Byte := BitVec.ofNat 8 (v / 256)
def loByte (v : Nat) : Byte := BitVec.ofNat 8 v

def bitByte (b : Bool) (n : Nat) : Byte := if b then 1#8 <<< n else 0

/-- The bytes of a HELLO (R88, R186). -/
def helloBytes (i : PeerIdentity) (replyRequest : Bool) : List Byte :=
  withCheck [0x16, hiByte i.chassis.toNat, loByte i.chassis.toNat, i.port, i.hops, i.epoch,
    BitVec.ofNat 8 ((i.lanes - 1) % 4) ||| bitByte replyRequest 7]

/-- The bytes of a DELAY (R88, R186). -/
def delayBytes (l2 trim : Nat) (unstable answer : Bool) : List Byte :=
  withCheck [0x24, hiByte l2, loByte l2, loByte trim, bitByte unstable 0 ||| bitByte answer 1]

/-- What a port's own HELLO says of it (R88). -/
def State.ownIdentity (s : State) (p : PortId) : PeerIdentity :=
  { chassis := s.plan.chassis, port := BitVec.ofNat 8 p.val, hops := 0, epoch := s.plan.epoch, lanes := (s.entry p).lanes }

/-- The bytes the sender builds when it begins an attempt (R88). -/
def State.buildMessage (s : State) (p : PortId) (m : Message) : List Byte :=
  match m.body with
  | .hello .own rr => helloBytes (s.ownIdentity p) rr
  | .hello (.forwarded i) rr => helloBytes i rr
  | .delay l2 unstable answer => delayBytes l2 (s.entry p).trim unstable answer

/-- An accepted message. -/
inductive Accepted where
  | hello (identity : PeerIdentity) (replyRequest : Bool)
  | delay (record : DelayRecord)
  deriving DecidableEq, Repr

/-- A HELLO's fields, none for a bad one: port above 23, chassis 0 or 65535, hops above 3 (R98). -/
def parseHello (bs : List Byte) : Option Accepted :=
  let chassis := beHalf (blockByte bs 1) (blockByte bs 2)
  let info := blockByte bs 6
  if (blockByte bs 3).toNat > 23 ∨ chassis = 0 ∨ chassis = 65535 ∨ (blockByte bs 4).toNat > 3 then none
  else some (.hello { chassis := BitVec.ofNat 16 chassis, port := blockByte bs 3, hops := blockByte bs 4,
                      epoch := blockByte bs 5, lanes := info.toNat % 4 + 1 } (info.getLsbD 7))

/-- A DELAY's fields, none for a bad one: L2 above 5631 (R98). -/
def parseDelay (bs : List Byte) : Option Accepted :=
  let l2 := beHalf (blockByte bs 1) (blockByte bs 2)
  let flags := blockByte bs 4
  if l2 > 5631 then none
  else some (.delay { l2, trim := (blockByte bs 3).toNat, unstable := flags.getLsbD 0, answer := flags.getLsbD 1 })

/-- The receiver's judgement of a whole message (R98): none is a rejection. -/
def judgeMessage (bs : List Byte) : Option Accepted :=
  if byteSum bs ≠ 0 then none
  else if blockByte bs 0 = 0x16 then parseHello bs
  else if blockByte bs 0 = 0x24 then parseDelay bs
  else none

/-- The bytes that follow a header: the body it announces and the check byte (R97). -/
def bytesAfterHeader (b : Byte) : Nat := b.toNat % 16 + 1

end Sys2Proof.Machine
end

