-- ==== Sys2Proof/Machine/Channel.lean ====
section
/-! DEFINITION. The Message Channel: its queue, its sender and its receiver (R86 to R99). -/

namespace Sys2Proof.Machine

/-! ### Purposes and records (R86) -/

def noPurposes : Purposes := { greeting := false, answer := false, relay := false, scan := [], measurement := [] }

/-- The union of two purpose sets. -/
def Purposes.union (a b : Purposes) : Purposes :=
  { greeting := a.greeting || b.greeting, answer := a.answer || b.answer, relay := a.relay || b.relay,
    scan := a.scan ++ b.scan, measurement := a.measurement ++ b.measurement }

/-- Whether two records are of the same type. -/
def Message.sameType (a b : Message) : Bool :=
  match a.body, b.body with
  | .hello _ _, .hello _ _ => true
  | .delay _ _ _, .delay _ _ _ => true
  | _, _ => false

/-- The body of a replacement (R89): the new record's fields; reply-request if either had it, ANSWER if both had it. -/
def mergeBody (old new : MessageBody) : MessageBody :=
  match old, new with
  | .hello _ r, .hello src r' => .hello src (r || r')
  | .delay _ _ a, .delay l2 u a' => .delay l2 u (a && a')
  | _, b => b

/-- A record that replaces a waiting record of its type (R89). -/
def mergeMessage (old new : Message) : Message :=
  { body := mergeBody old.body new.body, purposes := old.purposes.union new.purposes }

/-- Queues a record (R89): in the place of the waiting record of its type, else at the tail. -/
def enqueueMessage : List Message → Message → List Message
  | [], m => [m]
  | x :: xs, m => if x.sameType m then mergeMessage x m :: xs else x :: enqueueMessage xs m

def State.queueMessage (s : State) (p : PortId) (m : Message) : State :=
  s.updPort p fun x => { x with channel := { x.channel with queue := enqueueMessage x.channel.queue m } }

/-- The port's own HELLO (R88). -/
def ownHello (replyRequest : Bool) (purposes : Purposes) : Message := { body := .hello .own replyRequest, purposes }

/-- An answer to a HELLO (R100). -/
def answerHello : Message := ownHello false { noPurposes with answer := true }

def Message.isForwarded (m : Message) : Bool :=
  match m.body with
  | .hello (.forwarded _) _ => true
  | _ => false

/-! ### Channel reset (R99) -/

/-- A channel reset: every item but the queue. -/
def Channel.reset (c : Channel) : Channel := { resetChannel with queue := c.queue }

/-! ### Sender (R87, R90 to R95) -/

/-- An attempt begins with a gap (R91), its bytes built (R88). The byte index keeps its value until OFFER, where R91 sets it (log 39). -/
def Channel.beginAttempt (c : Channel) (m : Message) (n : Nat) (bytes : List Byte) : Channel :=
  { c with sender := .gap, sending := some m, bytes, attempt := n, onOffer := false, ackSeen := none }

/-- The sender takes the head of the queue (R90). -/
def State.takeHead (s : State) (p : PortId) : State :=
  match (s.port p).channel.queue with
  | [] => s
  | m :: rest => s.updPort p fun x => { x with channel := { x.channel with queue := rest }.beginAttempt m 1 (s.buildMessage p m) }

/-- The sender enters OFFER with the byte index at 0 and S opposite to the last take S (R91). -/
def Channel.enterOffer (c : Channel) : Channel :=
  { c with sender := .offer, byteIndex := 0, offeredS := !c.lastTakeS, onOffer := false, ackSeen := none }

/-- The sender as a frame starts: in GAP with the idle run already 2 it enters OFFER (R91). -/
def Channel.frameStart (c : Channel) : Channel := if c.sender = .gap ∧ c.idleRun = 2 then c.enterOffer else c

/-- The message byte, O and S that the channel supplies (R87). -/
def Channel.fields (c : Channel) : Byte × Bool × Bool :=
  if c.sender = .offer then (c.bytes.getD c.byteIndex 0, true, c.offeredS) else (0, false, c.lastTakeS)

/-- The sender after its fields were taken (R87, R91): the idle run, the byte timer of a byte first offered, and OFFER
entered as the idle run reaches 2 in GAP. -/
def Channel.supplied (c : Channel) : Channel :=
  if c.sender = .offer then
    { c with idleRun := 0, onOffer := true, byteTimer := if c.onOffer then c.byteTimer else 0 }
  else
    let c := { c with idleRun := satInc 2 c.idleRun }
    if c.sender = .gap ∧ c.idleRun = 2 then c.enterOffer else c

/-- The sender IDLE with no message in transmission (R93, R95). -/
def Channel.endMessage (c : Channel) : Channel :=
  { c with sender := .idle, sending := none, bytes := [], onOffer := false, ackSeen := none }

/-- Whether the byte on offer is seen as taken by a frame with these K and J (R92). -/
def Channel.seesTake (c : Channel) (k j : Bool) : Bool :=
  c.sender == .offer && c.onOffer && k == c.offeredS && c.ackSeen == some (k, j)

/-- The sender's K and J of a frame that shows no take (R92). -/
def Channel.noteAck (c : Channel) (k j : Bool) : Channel :=
  if c.sender = .offer ∧ c.onOffer then { c with ackSeen := some (k, j) } else c

/-- The byte on offer is the check byte. -/
def Channel.onCheckByte (c : Channel) : Bool := c.byteIndex + 1 ≥ c.bytes.length

/-- A take of a byte that is not the check byte (R92). -/
def Channel.nextByte (c : Channel) : Channel :=
  { c with lastTakeS := c.offeredS, byteIndex := c.byteIndex + 1, offeredS := !c.offeredS, onOffer := false, ackSeen := none }

/-! ### Receiver (R96 to R98) -/

/-- A validated byte, K already set (R97, R98): the channel, and the message if the byte completes an accepted one. -/
def Channel.takeByte (c : Channel) (b : Byte) : Channel × Option Accepted :=
  match c.receiver with
  | .header => ({ c with j := false, received := [b], remaining := bytesAfterHeader b, receiver := .body }, none)
  | .body =>
    if c.remaining ≤ 1 then
      ({ c with j := (judgeMessage (c.received ++ [b])).isNone, received := [], remaining := 0, receiver := .header },
        judgeMessage (c.received ++ [b]))
    else ({ c with received := c.received ++ [b], remaining := c.remaining - 1 }, none)

/-- Whether a frame validates a byte (R96): it and the frame before offer the same byte with the same S, different from K. -/
def Channel.validates (c : Channel) (f : FrameFields) : Bool :=
  match c.lastFrame with
  | some l => f.o && l.offer && l.byte == f.byte && l.seq == f.s && f.s != c.k
  | none => false

/-- The receiver's counts after a frame (R96). -/
def Channel.noteFrame (c : Channel) (f : FrameFields) : Channel :=
  { c with lastFrame := some { byte := f.byte, offer := f.o, seq := f.s },
           rxIdleRun := if f.o then 0 else satInc 2 c.rxIdleRun }

/-- Two frames with O = 0 in BODY discard the partial message (R96); no byte remains to come (log 39). -/
def Channel.discardPartial (c : Channel) : Channel :=
  if c.rxIdleRun = 2 ∧ c.receiver = .body then { c with received := [], remaining := 0, receiver := .header } else c

/-- The receiver takes the fields of a received frame (R96 to R98). -/
def Channel.receive (c : Channel) (f : FrameFields) : Channel × Option Accepted :=
  if c.validates f then { c.noteFrame f with k := f.s }.takeByte f.byte
  else ((c.noteFrame f).discardPartial, none)

end Sys2Proof.Machine
end

