-- ==== Sys2Proof/Machine/Flags.lean ====
section
/-! DEFINITION. The sticky flags and their causes (R146 to R150). -/

namespace Sys2Proof.Machine

/-- The numbers of R192, which the snapshot and the CLEAR_FLAGS selection share. -/
def Flag.index : Flag → Nat
  | .farOpen => 0
  | .lowSignal => 1
  | .missing => 2
  | .degraded => 3
  | .cablePulled => 4
  | .identMissing => 5
  | .identCorrupt => 6
  | .mediaUnverified => 7
  | .lengthDisagrees => 8
  | .lengthSat => 9
  | .delayNegative => 10
  | .epochDiffers => 11
  | .skewClamped => 12
  | .shortSoak => 13
  | .peerNoReply => 14

def Flag.mask (f : Flag) : BitVec 15 := 1#15 <<< f.index

/-- Whether a flag is set. -/
def Context.hasFlag (c : Context) (f : Flag) : Bool := c.flags.getLsbD f.index

/-- A flag is set; setting one that is set changes nothing and marks nothing (R146). -/
def State.setFlag (s : State) (p : PortId) (f : Flag) : State :=
  s.updCtx p fun c => { c with flags := c.flags ||| f.mask }

/-- A flag is set where a condition holds. -/
def State.setFlagIf (s : State) (b : Bool) (p : PortId) (f : Flag) : State := if b then s.setFlag p f else s

/-- The cause of MISSING (R147): VACANT with an entry of effective type PLANNED. -/
def State.missingCause (s : State) (p : PortId) : Bool :=
  s.portState p == .vacant && (s.entry p).effective == .planned

/-- The causes that are present, at the bits of their flags (R147). -/
def State.presentCauses (s : State) (p : PortId) : BitVec 15 :=
  (if (s.port p).farOpenCause then Flag.farOpen.mask else 0) |||
  (if (s.port p).onState.low then Flag.lowSignal.mask else 0) |||
  (if s.missingCause p then Flag.missing.mask else 0) |||
  (if (s.port p).degradedCause then Flag.degraded.mask else 0)

/-- CLEAR_FLAGS at one port (R150): a selected flag is cleared unless its cause is present. -/
def State.clearFlagsAt (s : State) (selection : BitVec 15) (p : PortId) : State :=
  s.updCtx p fun c => { c with flags := c.flags &&& ~~~(selection &&& ~~~(s.presentCauses p)) }

end Sys2Proof.Machine
end

