-- ==== Sys2Proof/Machine/Formats.lean ====
section
/-! DEFINITION. What the block writes and what its registers read: codes (R192), snapshots and the page header (R190,
R191), port reports (R193), the register window (R166, R194). -/

namespace Sys2Proof.Machine

/-! ### Codes (R192) -/

/-- The state codes of section 1.2 and R192, which are also the stage codes. -/
def PortState.code : PortState → Nat
  | .dormant => 0
  | .vacant => 1
  | .seated => 2
  | .awaitFar => 3
  | .listen => 4
  | .greet => 5
  | .measure => 6
  | .exercise => 7
  | .qualified => 8
  | .handed => 9
  | .miswired => 10
  | .relaying => 11
  | .retryWait => 12
  | .latched => 13
  | .held => 14

/-- The states in which the transmitter is on (R3). -/
def PortState.transmits (st : PortState) : Bool := stageKnown st.code

def FaultCode.code : FaultCode → Nat
  | .none => 0
  | .noLock => 1
  | .lockLost => 2
  | .noGreeting => 3
  | .channelFail => 4
  | .delayUnstable => 5
  | .peerStall => 6
  | .errorRate => 7
  | .skew => 8
  | .linkLost => 9
  | .peerWithdrew => 10
  | .linkErrors => 11
  | .short => 12

def Verdict.code : Verdict → Nat
  | .none => 0
  | .matched => 1
  | .unplanned => 2
  | .wrongPeer => 3
  | .mediaMismatch => 4
  | .lengthMismatch => 5

def ScanKind.code : ScanKind → Nat
  | .line => 1
  | .peer => 2
  | .delay => 3
  | .counts => 4
  | .expect => 5

def ScanResult.code : ScanResult → Nat
  | .none => 0
  | .notApplicable => 1
  | .terminated => 2
  | .openLine => 3
  | .short => 4
  | .good => 5
  | .low => 6
  | .replied => 7
  | .noReply => 8
  | .abandoned => 9
  | .length => 10
  | .unstable => 11
  | .copied => 12
  | .absentPlanned => 13
  | .absentUnplanned => 14

def Media.code : Media → Nat
  | .copper => 1
  | .active => 2
  | .optical => 3

def EntryType.code : EntryType → Nat
  | .unplanned => 0
  | .planned => 1
  | .relay => 2

def RetryPolicy.code : RetryPolicy → Nat
  | .limited => 0
  | .unlimited => 1
  | .noRetry => 2

/-- Lane selector codes: 4 is none (R192). -/
def selectorBits (c : Option ExerciserId) : BitVec 3 :=
  match c with
  | some e => BitVec.ofNat 3 e.val
  | none => 4

def ScanState.code : ScanState → Nat
  | .idle => 0
  | .running => 1
  | .draining => 2

def WorkFaultCause.code : WorkFaultCause → Nat
  | .none => 0
  | .badLink => 1
  | .staleLink => 2
  | .memory => 3

/-! ### Packing -/

def bitNat (b : Bool) : Nat := if b then 1 else 0

/-- Fields of a value, each with its width in bits, the lowest first. -/
def packFields : List (Nat × Nat) → Nat
  | [] => 0
  | (v, w) :: r => v % 2 ^ w + 2 ^ w * packFields r

/-- The bytes of packed fields, least significant first. -/
def packBytes (n : Nat) (fs : List (Nat × Nat)) : List Byte := leBytes n (packFields fs)

def zeroBytes (n : Nat) : List Byte := List.replicate n 0

/-! ### Snapshot (R190, R191) -/

/-- The identity status code of snapshot byte 8. -/
def CableIdentity.statusCode : CableIdentity → Nat
  | .none => 0
  | .valid _ => 1
  | .missing => 2
  | .corrupt => 3

/-- Bytes 8's media and lanes fields as values: 0 where the status is not VALID (R191). -/
def CableIdentity.mediaCode : CableIdentity → Nat
  | .valid f => f.media.code
  | _ => 0

def CableIdentity.lanesCode : CableIdentity → Nat
  | .valid f => f.lanes - 1
  | _ => 0

/-- Bytes 12 to 31: marked length, propagation, serial; 4900 in the propagation field where the status is not VALID (R191). -/
def CableIdentity.blockBytes : CableIdentity → List Byte
  | .valid f => leBytes 2 f.marked ++ leBytes 2 f.propagation ++ (f.serial ++ zeroBytes 16).take 16
  | _ => leBytes 2 0 ++ leBytes 2 4900 ++ zeroBytes 16

/-- Bytes 32 to 35: the peer identity with the results-present bit, or the relay drop count (R191). -/
def Context.peerBytes (c : Context) : List Byte :=
  match c.peer with
  | some i => leBytes 2 i.chassis.toNat ++
      packBytes 1 [(i.port.toNat, 5), (i.hops.toNat, 2), (bitNat c.results.isSome, 1)] ++ [i.epoch]
  | none => leBytes 2 c.relayDrops ++ packBytes 1 [(0, 7), (bitNat c.results.isSome, 1)] ++ [0]

/-- One of bytes 40 to 43: a lane's deskew and its live bit. -/
def ExerciseResults.laneByte (r : ExerciseResults) (i : LaneId) : Byte :=
  BitVec.ofNat 8 (packFields [(match r.deskew with | some d => d[i] | none => 0, 7), (bitNat r.live[i], 1)])

/-- Bytes 40 to 51: the lanes and their error counts. -/
def Context.resultBytes (c : Context) : List Byte :=
  match c.results with
  | some r => [r.laneByte 0, r.laneByte 1, r.laneByte 2, r.laneByte 3] ++ leBytes 2 r.errors[0] ++ leBytes 2 r.errors[1] ++
      leBytes 2 r.errors[2] ++ leBytes 2 r.errors[3]
  | none => zeroBytes 12

def VerdictMask.bits (m : VerdictMask) : Nat :=
  packFields [(bitNat m.unplanned, 1), (bitNat m.wrongPeer, 1), (bitNat m.mediaMismatch, 1), (bitNat m.lengthMismatch, 1)]

/-- Snapshot bytes 4 to 63 of a port context. -/
def Context.snapshotFields (c : Context) (p : PortId) : List Byte :=
  packBytes 4
    [(p.val, 5), (bitNat c.armed, 1), (bitNat c.inhibited, 1), (bitNat c.retryFull, 1),
     (c.state.code, 4), (c.lastFault.code, 4),
     (c.lastVerdict.code, 3), (c.verdictMask.bits, 4), (bitNat (c.miswiredStage == .measure && c.state == .miswired), 1),
     (c.retryCounter, 5), (match c.heldExerciser with | some e => e.val | none => 7, 3)] ++
  packBytes 4
    [(c.stallCount, 2), (c.cable.statusCode, 2), (c.cable.mediaCode, 2), (c.cable.lanesCode, 2),
     (match c.lastScanKind with | some k => k.code | none => 0, 3), (c.scanResult.code, 4), (bitNat c.length.isSome, 1),
     (c.flags.toNat, 15), (bitNat c.peer.isSome, 1)] ++
  c.cable.blockBytes ++ c.peerBytes ++
  packBytes 2 [(c.length.getD 0, 12), (match c.peer with | some i => i.lanes - 1 | none => 0, 2), (0, 2)] ++
  leBytes 2 c.scanPass ++ c.resultBytes ++ leBytes 2 c.nbe ++ leBytes 2 c.fbe ++ leBytes 2 c.lapseCount ++
  leBytes 2 c.windowCount ++ leBytes 4 c.stamp.toNat

/-! ### Page header (R190) -/

/-- The owner byte of an exerciser. -/
def ownerByte (g : Option Grant) : Byte :=
  match g with
  | some g => BitVec.ofNat 8 g.port.val
  | none => 255

/-- Header bytes 4 to 63. -/
def State.headerFields (s : State) : List Byte :=
  [BitVec.ofNat 8 (packFields [(bitNat s.run, 1), (bitNat s.plan.inEffect, 1)]), s.plan.epoch] ++
  leBytes 2 s.plan.chassis.toNat ++ leBytes 8 s.anchor.toNat ++
  [BitVec.ofNat 8 s.walker.code, BitVec.ofNat 8 s.lastWorkFault.code, BitVec.ofNat 8 s.reader.queue.length,
   BitVec.ofNat 8 s.pool.queue.length] ++
  leBytes 4 s.debounced.toNat ++ leBytes 4 s.watch.snapshot.toNat ++
  [BitVec.ofNat 8 s.scan.state.code, BitVec.ofNat 8 s.scan.pointer, BitVec.ofNat 8 s.scan.overruns, 0] ++
  leBytes 2 s.scan.passes ++
  [ownerByte s.pool.owners[0], ownerByte s.pool.owners[1], ownerByte s.pool.owners[2], ownerByte s.pool.owners[3]] ++
  zeroBytes 26

/-! ### Port report (R193) -/

def LockState.code : LockState → Nat
  | .off => 0
  | .search => 1
  | .frame => 2
  | .locked => 3

def OffResult.code : OffResult → Nat
  | .none => 0
  | .terminated => 1
  | .openLine => 2
  | .short => 3

def SenderState.code : SenderState → Nat
  | .idle => 0
  | .gap => 1
  | .offer => 2

/-- Message types: 1 HELLO, 2 DELAY, 0 for none. -/
def messageTypeCode (m : Option Message) : Nat :=
  match m with
  | some m => (match m.body with | .hello _ _ => 1 | .delay _ _ _ => 2)
  | none => 0

def PairPhase.code : PairPhase → Nat
  | .idle => 0
  | .plus => 1
  | .minus => 2

def GrantPhase.code : GrantPhase → Nat
  | .start => 1
  | .training => 2
  | .soak => 3

def CheckerState.code : CheckerState → Nat
  | .stopped => 0
  | .search => 1
  | .proving _ => 2
  | .locked => 3

/-- A held entry in the plan image entry layout (R188, R193), its type byte the effective type (log 37). -/
def Entry.bytes (e : Entry) : List Byte :=
  [BitVec.ofNat 8 e.effective.code, e.peerPort] ++ leBytes 2 e.peerChassis.toNat ++
  packBytes 2
    [(e.hops.toNat, 2), (match e.media with | some m => m.code | none => 0, 3), (bitNat (e.policy == .manual), 1), (0, 2),
     (e.retryPolicy.code, 2), (e.retryClass.toNat, 2), (0, 4)] ++
  leBytes 2 e.nominal ++
  [BitVec.ofNat 8 e.tolerance, BitVec.ofNat 8 e.trim, BitVec.ofNat 8 e.lanes, BitVec.ofNat 8 e.soakUnits,
   BitVec.ofNat 8 e.skewLimit, BitVec.ofNat 8 e.threshold] ++
  leBytes 2 e.allowance

def brokenCode (b : Option BrokenCause) : Byte :=
  match b with
  | none => 0
  | some .field => 1
  | some .pairing => 2

/-- The grant of the exerciser a port holds (R120). -/
def State.grantOf (s : State) (p : PortId) : Option Grant :=
  match (s.ctx p).heldExerciser with
  | some e => s.pool.owners[e]
  | none => none

/-- Bytes 82 and 83: presence, the off-state result, the causes and the on-state runs (log 36). -/
def State.lineBytes (s : State) (p : PortId) : List Byte :=
  let x := s.port p
  packBytes 2
    [(bitNat (maskHas s.raw p), 1), (x.offResult.code, 2), (bitNat x.offActivity, 1),
     (bitNat x.farOpenCause, 1), (bitNat x.onState.low, 1), (bitNat (s.missingCause p), 1), (bitNat x.degradedCause, 1),
     (x.onState.below, 4), (x.onState.above, 4)]

/-- Bytes 84 and 85: lock state, persistence runs, the effective word with its first bit in bit 0. -/
def Port.wordBytes (x : Port) : List Byte :=
  packBytes 1 [(x.framer.lock.code, 2), (bitNat x.framer.effective.isSome, 1), (x.notReadyRun, 2), (x.followRun, 2)] ++
    [(x.framer.effective.getD 0).reverse]

/-- Bytes 86 and 87: the Message Channel. -/
def Channel.reportBytes (c : Channel) : List Byte :=
  packBytes 2
    [(c.sender.code, 2), (bitNat (c.receiver == .body), 1), (bitNat c.k, 1), (bitNat c.j, 1), (c.attempt - 1, 2), (0, 1),
     (messageTypeCode c.sending, 2), (c.byteIndex, 4), (0, 2)]

/-- A value or the code for none in two bytes. -/
def orNone (v : Option Nat) : List Byte := leBytes 2 (v.getD 0xFFFF)

/-- The spread in two's complement, 0x8000 for none. -/
def spreadBytes (v : Option Int) : List Byte :=
  match v with
  | some d => leBytes 2 (d % 65536).toNat
  | none => leBytes 2 0x8000

/-- Bytes 88 and 89: queue types, pair phase, bias, record presence; jobs and pair number (log 36). -/
def Port.queueAndJobs (x : Port) : List Byte :=
  packBytes 2
    [(messageTypeCode x.channel.queue[0]?, 2), (messageTypeCode x.channel.queue[1]?, 2), (x.meter.phase.code, 2),
     (bitNat x.meter.biasMinus, 1), (bitNat x.meter.peerRecord.isSome, 1),
     (bitNat x.meter.measureJob.isSome, 1), (bitNat x.meter.legJob.isSome, 1), (bitNat x.meter.scanJob.isSome, 1),
     (bitNat x.meter.answerJob.isSome, 1), (x.meter.pairNumber.getD 0, 2), (0, 2)]

/-- Bytes 98 to 101: the peer delay record, 0 when there is none (log 25); in byte 101 UNSTABLE is bit 0 and ANSWER bit 1 (log 36). -/
def DelayRecord.bytes (r : Option DelayRecord) : List Byte :=
  match r with
  | some r => leBytes 2 r.l2 ++ [BitVec.ofNat 8 r.trim, bitByte r.unstable 0 ||| bitByte r.answer 1]
  | none => zeroBytes 4

/-- The reply wait of a PEER check in flight on the port, else 0. -/
def State.replyWaitOf (s : State) (p : PortId) : Nat :=
  match s.scan.inFlight with
  | some c => if c.port = p ∧ c.kind = .peer then c.replyWait else 0
  | none => 0

/-- The marks of a job: measured, delivered, record (log 36). -/
def jobMarks (j : Option Job) : List (Nat × Nat) :=
  match j with
  | some j => [(bitNat j.measured, 1), (bitNat j.delivered, 1), (bitNat j.record, 1)]
  | none => [(0, 3)]

/-- Byte 112: the marks of the MEASURE, LEG and SCAN jobs. -/
def Meter.marksByte (m : Meter) : List Byte :=
  packBytes 1 (jobMarks m.measureJob ++ jobMarks m.legJob ++
    [(match m.scanJob with | some j => bitNat j.measured | none => 0, 1),
     (match m.scanJob with | some j => bitNat j.record | none => 0, 1)])

/-- Bytes 113 to 115: the grant, 0 when the port holds none (log 25). -/
def grantBytes (g : Option Grant) : List Byte :=
  match g with
  | some g => packBytes 1 [(g.phase.code, 2), (g.lanes - 1, 2), (g.peerStop, 2)] ++
      packBytes 1 [(g.checkers[0].state.code, 2), (g.checkers[1].state.code, 2), (g.checkers[2].state.code, 2),
        (g.checkers[3].state.code, 2)] ++ [BitVec.ofNat 8 g.units]
  | none => zeroBytes 3

/-- The 128 bytes of a port report captured now (R175, R193). -/
def State.reportBytes (s : State) (p : PortId) : List Byte :=
  let x := s.port p
  leBytes 4 s.ms.toNat ++ x.ctx.snapshotFields p ++
  (s.entry p).bytes ++ [BitVec.ofNat 8 (s.entry p).declared.code, brokenCode (s.entry p).broken] ++
  s.lineBytes p ++ x.wordBytes ++ x.channel.reportBytes ++ x.queueAndJobs ++
  orNone x.meter.lp ++ orNone x.meter.lm ++ spreadBytes x.meter.spread ++ orNone x.meter.ownL2 ++
  DelayRecord.bytes x.meter.peerRecord ++ orNone x.meter.lastR2 ++ orNone x.meter.lastN2 ++
  leBytes 2 x.meter.scanWait ++ leBytes 2 (s.replyWaitOf p) ++ leBytes 2 x.ctx.relayDrops ++
  x.meter.marksByte ++ grantBytes (s.grantOf p) ++
  leBytes 4 (x.timers.retryLength.getD 0) ++ leBytes 4 (x.timers.retryRemaining.getD 0) ++ zeroBytes 4

/-! ### The register window (R166, R194) -/

/-- What a read of the register at an offset returns; none outside the nine registers. -/
def State.readRegister (s : State) (offset : Nat) : Option Word :=
  match offset with
  | 0x00 => some Config.ident
  | 0x04 => some (BitVec.ofNat 32 (packFields [(bitNat s.run, 1), (0, 2), (bitNat s.irqEn, 1)]))
  | 0x08 => some (s.anchor.extractLsb' 0 32)
  | 0x0C => some (s.anchor.extractLsb' 32 32)
  | 0x10 => some s.pageLow
  | 0x14 => some (s.pageBase.extractLsb' 32 32)
  | 0x18 => some 0
  | 0x1C => some (s.summary.setWidth 32)
  | 0x20 => some (s.summaryEnable.setWidth 32)
  | _ => none

end Sys2Proof.Machine
end

