-- ==== Sys2Proof/Machine/Scheduler.lean ====
section
/-! DEFINITION. The Scan Scheduler's own movements: pointer, passes, draining, and the end of the check in flight (R152,
R157 to R159). -/

namespace Sys2Proof.Machine

/-- Replaces the Scheduler; a change of the items the header shows marks the header dirty (R152). -/
def State.setScan (s : State) (x : Scheduler) : State :=
  if x.state = s.scan.state ∧ x.pointer = s.scan.pointer ∧ x.passes = s.scan.passes ∧ x.overruns = s.scan.overruns then
    { s with scan := x }
  else { s with scan := x }.markHeader

/-- The Scheduler stopped in IDLE (R158): the pacer stops, the pointer returns to 0, list, settings and counts are kept, what is
left of the post-stop count with them (log 52). -/
def Scheduler.stopped (x : Scheduler) : Scheduler :=
  { x with state := .idle, pacerOn := false, elapsed := 0, pointer := 0 }

/-- A scan in DRAINING with post-stop count 0 and no check in flight stops (R158). -/
def State.scanDrainTest (s : State) : State :=
  if s.scan.state = .draining ∧ s.scan.postStop = 0 ∧ s.scan.inFlight = none then s.setScan s.scan.stopped else s

/-- Whether a completed pass stops the scan (R157); the pass count is already raised. -/
def Scheduler.passStops (x : Scheduler) : Bool :=
  match x.mode, x.stop with
  | .singlePass, _ => true
  | .continuous, .passes limit => x.passes == limit
  | .continuous, _ => false

/-- A pass completes (R157). -/
def State.passComplete (s : State) : State :=
  let s := (s.setScan { s.scan with pointer := 0, passes := satInc 65535 s.scan.passes }).setSummary .scanPass
  if s.scan.passStops then s.setScan s.scan.stopped else s

/-- The pointer advances (R157). A check that ends in IDLE or under a SCAN_SETUP moves neither the pointer nor the pass
count (R154). -/
def State.advancePointer (s : State) : State :=
  if s.scan.state = .idle ∨ s.scan.setup.isSome then s
  else if s.scan.pointer + 1 < s.scan.list.length then s.setScan { s.scan with pointer := s.scan.pointer + 1 }
  else s.passComplete

/-- The port controller records a check's result (R159). -/
def State.recordCheck (s : State) (c : InFlight) (r : ScanResult) : State :=
  (s.updCtx c.port fun x => { x with lastScanKind := some c.kind, scanResult := r, scanPass := c.pass }).markDirty c.port

/-- The in-flight check ends with a result (R157 to R159). -/
def State.endCheck (s : State) (r : ScanResult) : State :=
  match s.scan.inFlight with
  | none => s
  | some c =>
    let s := s.recordCheck c r
    { s with scan := { s.scan with inFlight := none } }.advancePointer.scanDrainTest

/-- Whether a check of kind `k` is in flight on port `p`. -/
def State.checking (s : State) (p : PortId) (k : ScanKind) : Bool :=
  match s.scan.inFlight with
  | some c => c.port == p && c.kind == k
  | none => false

/-- Ends the check of kind `k` on port `p`, where it is the one in flight; any other report is disregarded (R159). -/
def State.endCheckOn (s : State) (p : PortId) (k : ScanKind) (r : ScanResult) : State :=
  if s.checking p k then s.endCheck r else s

/-- A check of kind `k` on port `p` goes unanswered: NO_REPLY with PEER_NO_REPLY set (R161, R162). -/
def State.endUnanswered (s : State) (p : PortId) (k : ScanKind) : State :=
  if s.checking p k then (s.setFlag p .peerNoReply).endCheck .noReply else s

/-- A presence event from the Watch (R158). -/
def State.presenceEvent (s : State) : State :=
  match s.scan.state, s.scan.stop with
  | .running, .eventThen drain => (s.setScan { s.scan with state := .draining, postStop := drain }).scanDrainTest
  | _, _ => s

/-- The scan stops at once or drains with post-stop count 0 (SCAN_STOP, R158). -/
def State.stopScan (s : State) : State :=
  if s.scan.state = .idle then s else (s.setScan { s.scan with state := .draining, postStop := 0 }).scanDrainTest

/-- The off-state group of the LINE check (R160). -/
def lineOffState (st : PortState) : Bool := st == .seated || st == .awaitFar || st == .retryWait || st == .latched

/-- The states of a PEER check (R161). -/
def peerCheckState (st : PortState) : Bool := st == .qualified || st == .handed || st == .miswired

/-- The states of a DELAY check (R162). -/
def delayCheckState (st : PortState) : Bool := peerCheckState st || st == .relaying

/-- The on-state result of a LINE check (R62). -/
def State.onStateResult (s : State) (p : PortId) : ScanResult := if (s.port p).onState.low then .low else .good

end Sys2Proof.Machine
end

