-- ==== Sys2Proof/Machine/Verdicts.lean ====
section
/-! DEFINITION. The verdict checks (R46 to R50) and the arithmetic of delay and length (R110, R118, R119). -/

namespace Sys2Proof.Machine

/-- The absolute difference of two numbers. -/
def absDiff (a b : Nat) : Nat := (a - b) + (b - a)

/-- Check 2 fails: the peer's chassis, port or hops differ from the entry (R46). -/
def wrongPeerFails (e : Entry) (peer : Option PeerIdentity) : Bool :=
  match peer with
  | some i => i.chassis != e.peerChassis || i.port != e.peerPort || i.hops.toNat != e.hops.toNat
  | none => false

/-- The cable conditions of check 3 fail, which are tested only on a VALID identity (R47). -/
def cableFails (e : Entry) (cable : CableIdentity) : Bool :=
  match cable with
  | .valid f => (match e.media with | some m => f.media != m | none => false) || f.lanes < e.lanes
  | _ => false

/-- The peer condition of check 3 fails (R47). -/
def peerLanesFail (e : Entry) (peer : Option PeerIdentity) : Bool :=
  match peer with
  | some i => i.lanes < e.lanes
  | none => false

/-- Check 4 fails: a length, where one is judged, lies further from nominal than the tolerance (R47). -/
def lengthFails (e : Entry) (length : Option Nat) : Bool :=
  match length with
  | some n => absDiff n e.nominal > e.tolerance
  | none => false

/-- The checks of a wiring verdict (`length` none), a length verdict or a re-verdict (R46 to R48). -/
def portChecks (e : Entry) (cable : CableIdentity) (peer : Option PeerIdentity) (length : Option Nat) : VerdictMask :=
  if e.effective = .unplanned then ⟨true, false, false, false⟩
  else ⟨false, wrongPeerFails e peer, cableFails e cable || peerLanesFail e peer, lengthFails e length⟩

/-- The checks of a leg verdict: 3 without its peer condition, and 4 where a length is present (R48). -/
def legChecks (e : Entry) (cable : CableIdentity) (length : Option Nat) : VerdictMask :=
  ⟨false, false, cableFails e cable, lengthFails e length⟩

/-- The last verdict: the code of the first check that failed, MATCH when none did (R48). -/
def VerdictMask.verdict (m : VerdictMask) : Verdict :=
  if m.unplanned then .unplanned
  else if m.wrongPeer then .wrongPeer
  else if m.mediaMismatch then .mediaMismatch
  else if m.lengthMismatch then .lengthMismatch
  else .matched

/-- The miswired stage of a failed wiring verdict or re-verdict: GREET for checks 1 to 3, MEASURE for check 4 (R48). -/
def VerdictMask.stage (m : VerdictMask) : MiswiredStage :=
  if m.unplanned || m.wrongPeer || m.mediaMismatch then .greet else .measure

/-! ### Pairs and lengths -/

/-- The spread D' of a pair (R110). -/
def pairSpread (lp lm : Nat) : Int :=
  let d := ((lm : Int) - lp) % 2816
  if d < 1408 then d else d - 2816

/-- The pair is stable: D' lies in -16 to 16 (R110). -/
def pairStable (spread : Int) : Bool := -16 ≤ spread && spread ≤ 16

/-- The own doubled offset L2 = (2 Lp + D') mod 5632 (R110). -/
def pairL2 (lp : Nat) (spread : Int) : Nat := ((2 * (lp : Int) + spread) % 5632).toNat

/-- R2 = (own L2 + record L2) mod 5632 (R118). -/
def roundTrip (own far : Nat) : Nat := (own + far) % Config.cycleHalfTicks

/-- N2 before its clamp (R118). -/
def netRaw (r2 trimNear trimFar : Nat) : Int := (r2 : Int) - Config.transitHalfTicks - trimNear - trimFar

/-- The length in decimetres before its clamp (R119). -/
def lengthRaw (n2 prop : Nat) : Nat := (n2 * 31250 + prop) / (2 * prop)

/-- A length clamped to 4095 dm (R119). -/
def lengthClamped (n : Nat) : Nat := Nat.min n 4095

/-- LENGTH_DISAGREES (R119): a VALID marked length lies further from the length than the tolerance. -/
def lengthDisagrees (e : Entry) (cable : CableIdentity) (length : Nat) : Bool :=
  match cable with
  | .valid f => absDiff length f.marked > e.tolerance
  | _ => false

end Sys2Proof.Machine
end

