-- ==== Sys2Proof/Machine/Meter.lean ====
section
/-! DEFINITION. The Delay Meter: its jobs, its measurement, its record and its length (R107 to R119). -/

namespace Sys2Proof.Machine

/-- The four kinds of job (R108). -/
inductive JobKind where
  | measure
  | leg
  | scan
  | answer
  deriving DecidableEq, Repr

/-! ### The meter alone -/

def Meter.job (m : Meter) (k : JobKind) : Option Job :=
  match k with
  | .measure => m.measureJob
  | .leg => m.legJob
  | .scan => m.scanJob
  | .answer => m.answerJob

def Meter.setJob (m : Meter) (k : JobKind) (j : Option Job) : Meter :=
  match k with
  | .measure => { m with measureJob := j }
  | .leg => { m with legJob := j }
  | .scan => { m with scanJob := j }
  | .answer => { m with answerJob := j }

/-- The phase returns to IDLE (R110, R111, R116). -/
def Meter.toIdle (m : Meter) : Meter := { m with phase := .idle, pairNumber := none }

/-- With no job left, a measurement in progress is abandoned (R116). -/
def Meter.idleIfNoJob (m : Meter) : Meter :=
  if m.measureJob.isNone && m.legJob.isNone && m.scanJob.isNone && m.answerJob.isNone then m.toIdle else m

/-- A job ends without a result. -/
def Meter.endJob (m : Meter) (k : JobKind) : Meter := (m.setJob k none).idleIfNoJob

/-- The clear of R117: the last R2 and N2 are kept. -/
def Meter.cleared (m : Meter) : Meter :=
  { resetMeter with lastR2 := m.lastR2, lastN2 := m.lastN2, measurementNo := m.measurementNo }

/-- A pair begins at PLUS with bias + (R109). -/
def Meter.beginPair (m : Meter) (n : Nat) : Meter :=
  { m with phase := .plus, pairNumber := some n, biasMinus := false }

/-- The measurement in progress, or a new one at pair 1 (R108). -/
def Meter.measuring (m : Meter) : Meter :=
  if m.phase = .idle then { m with measurementNo := m.measurementNo + 1 }.beginPair 1 else m

/-- A job starts (R108): it joins the measurement in progress or begins one; a MEASURE job finds a record at its start. -/
def Meter.startJob (m : Meter) (k : JobKind) : Meter :=
  let m := m.measuring
  let m := m.setJob k (some { measured := false, delivered := false, record := k == .measure && m.peerRecord.isSome,
                              measurement := m.measurementNo })
  if k = .scan then { m with scanWait := 0 } else m

/-- The job takes part in the measurement in progress: it has not been measured yet (R108). -/
def takesPart (j : Option Job) : Bool :=
  match j with
  | some j => !j.measured
  | none => false

def markMeasured (j : Option Job) : Option Job := j.map fun j => { j with measured := true }
def markRecord (j : Option Job) : Option Job := j.map fun j => { j with record := true }

/-- The delivered mark of a delivered DELAY, for a job of one of its measurements (R112). -/
def markDelivered (ms : List Nat) (j : Option Job) : Option Job :=
  j.map fun j => if j.measurement ∈ ms then { j with delivered := true } else j

/-- A DELAY handed to the meter (R113). -/
def Meter.takeRecord (m : Meter) (r : DelayRecord) : Meter :=
  { m with peerRecord := some r, measureJob := markRecord m.measureJob, legJob := markRecord m.legJob,
           scanJob := markRecord m.scanJob }

/-- Every job whose owning states leave out `st` ends (R116). The SCAN job is the scheduler's to end. -/
def Meter.endJobsOutside (m : Meter) (st : PortState) : Meter :=
  let m := if st = .measure then m else m.setJob .measure none
  let m := if st = .relaying then m else m.setJob .leg none
  let m := if st = .exercise ∨ delayCheckState st then m else m.setJob .answer none
  m.idleIfNoJob

/-- A MEASURE or LEG job with all its marks. -/
def jobComplete (j : Option Job) : Bool :=
  match j with
  | some j => j.measured && j.delivered && j.record
  | none => false

/-- A SCAN job with its two marks. -/
def scanComplete (j : Option Job) : Bool :=
  match j with
  | some j => j.measured && j.record
  | none => false

/-- The number of the DELAY check in flight on a port. -/
def State.delayCheckNumbers (s : State) (p : PortId) : List Nat :=
  match s.scan.inFlight with
  | some c => if c.port = p ∧ c.kind = .delay then [c.number] else []
  | none => []

/-! ### The meter of a port -/

def State.updMeter (s : State) (p : PortId) (f : Meter → Meter) : State :=
  s.updPort p fun x => { x with meter := f x.meter }

/-- The meter is cleared (R113, R117); a SCAN job so ended is reported as abandoned. -/
def State.meterClear (s : State) (p : PortId) : State :=
  let t := s.updMeter p Meter.cleared
  if (s.port p).meter.scanJob.isSome then t.endCheckOn p .delay .abandoned else t

/-- A job is started (R108). Without lock it ends at once, and a SCAN job is then reported as abandoned. -/
def State.startJob (s : State) (p : PortId) (k : JobKind) : State :=
  if (s.port p).framer.lock = .locked then s.updMeter p fun m => m.startJob k
  else
    let s := s.updMeter p fun m => m.endJob k
    if k = .scan then s.endCheckOn p .delay .abandoned else s

/-- The DELAY at the end of a stable measurement (R112), from the jobs as they were while it ran. Where no job takes part any more,
ANSWER is set and there is no purpose (log 44). -/
def measurementDelay (m : Meter) (l2 : Nat) (checks : List Nat) : Message :=
  { body := .delay l2 false (!(takesPart m.measureJob || takesPart m.legJob || takesPart m.scanJob))
    purposes :=
      { greeting := false, answer := takesPart m.answerJob, relay := false,
        scan := if takesPart m.scanJob then checks else [],
        measurement := if takesPart m.measureJob || takesPart m.legJob then [m.measurementNo] else [] } }

/-- The UNSTABLE DELAY (R111). -/
def unstableDelay : Message := { body := .delay 0 true true, purposes := { noPurposes with answer := true } }

/-- The re-queued DELAY of a port in MEASURE (R101, R114). -/
def requeuedDelay (l2 : Nat) : Message := { body := .delay l2 false true, purposes := { noPurposes with answer := true } }

/-- The end of a stable measurement (R110, R112, R114): own L2, the measured marks, the DELAY queued, the ANSWER job done. -/
def State.measurementStable (s : State) (p : PortId) (l2 : Nat) : State :=
  let d := measurementDelay (s.port p).meter l2 (s.delayCheckNumbers p)
  (s.updMeter p fun m =>
    { m.toIdle with ownL2 := some l2, measureJob := markMeasured m.measureJob, legJob := markMeasured m.legJob,
                    scanJob := markMeasured m.scanJob, answerJob := none }).queueMessage p d

/-- The length computation of R118 and R119, from the own L2 and the record: R2, N2 and the length before its clamp. -/
def computeLength (own : Nat) (r : DelayRecord) (trim prop : Nat) : Nat × Int × Nat :=
  let r2 := roundTrip own r.l2
  let n := netRaw r2 trim r.trim
  (r2, n, lengthRaw n.toNat prop)

/-- The meter works out a length and the port stores it (R115, R118, R119). -/
def State.storeLength (s : State) (p : PortId) (own : Nat) (r : DelayRecord) : State :=
  let c := s.ctx p
  let (r2, n, raw) := computeLength own r (s.entry p).trim c.cable.propagation
  let len := lengthClamped raw
  let s := s.updMeter p fun m => { m with lastR2 := some r2, lastN2 := some n.toNat }
  let s := (s.setFlagIf (decide (n < 0)) p .delayNegative).setFlagIf (decide (raw > 4095)) p .lengthSat
  let s := s.updCtx p fun c => { c with length := some len }
  s.setFlagIf (lengthDisagrees (s.entry p) c.cable len) p .lengthDisagrees

end Sys2Proof.Machine
end

