-- ==== Sys2Proof/Machine/Pool.lean ====
section
/-! DEFINITION. The Exerciser Pool: grants, returns and the Exerciser Wait Queue (R120 to R124, R130), and the Identity Queue
and the reader's abort (R65, R69). -/

namespace Sys2Proof.Machine

/-! ### Lane selector codes (R124) -/

/-- Sets a port's lane selector code; a change waits for a load, one that a later change of the same event undoes included (log 45). -/
def State.setSelector (s : State) (p : PortId) (c : Option ExerciserId) : State :=
  if (s.port p).selectorCode = c then s
  else { s.updPort p fun x => { x with selectorCode := c } with selector := { s.selector with changePending := true } }

/-! ### Exercisers -/

def stoppedChecker : Checker := { state := .stopped, predictor := 0, position := 0, arrivals := [], errors := 0 }

/-- The grant record of a new grant (R121): each lane under test has its checker in SEARCH. Whole units done and the soak length, which R132
sets at SOAK, hold 0 until then (log 50, the model's choice), and a lane not under test, which has no checker (R120), a stopped one (log 25). -/
def newGrant (p : PortId) (lanes : Nat) : Grant :=
  { port := p, lanes, phase := .start, phaseCount := 0, peerStop := 0, soakLength := 0, units := 0, patternOn := false,
    checkers := Vector.ofFn fun i => if i.val < lanes then { stoppedChecker with state := .search } else stoppedChecker }

def State.setOwner (s : State) (e : ExerciserId) (g : Option Grant) : State :=
  { s with pool := { s.pool with owners := s.pool.owners.set e g } }

/-- The lowest-numbered free exerciser. -/
def State.freeExerciser (s : State) : Option ExerciserId := allExercisers.find? fun e => s.pool.owners[e].isNone

/-- A grant of exerciser `e` to port `p` (R121). It does not ask whether the entry has become RELAY since (log 54). -/
def State.grantExerciser (s : State) (e : ExerciserId) (p : PortId) : State :=
  let s := (s.setOwner e (some (newGrant p (s.entry p).lanes))).markHeader
  let s := (s.setSelector p (some e)).updCtx p fun x => { x with heldExerciser := some e }
  s.updPort p fun x => { x with timers := { x.timers with peerStart := some 0 } }

/-- Steps 1 to 3 of a return (R122). -/
def State.dropGrant (s : State) (e : ExerciserId) (p : PortId) : State :=
  let s := (s.setOwner e none).markHeader
  let s := s.updCtx p fun x => { x with heldExerciser := none }
  let s := s.updPort p fun x => { x with timers := { x.timers with peerStart := none } }
  s.setSelector p none

def State.setWaitQueue (s : State) (q : List PortId) : State := { s with pool := { s.pool with queue := q } }.markHeader

/-- Step 4 of a return (R122): the exerciser, whose owner is free, goes to the head of the wait queue, if there is one. -/
def State.disposeExerciser (s : State) (e : ExerciserId) : State :=
  match s.pool.queue with
  | [] => s
  | q :: rest => (s.setWaitQueue rest).grantExerciser e q

/-- A port gives up its wait for an exerciser (R122): a request not yet taken is withdrawn (log 10). -/
def State.leaveWaitQueue (s : State) (p : PortId) : State :=
  let s := { s with pool := { s.pool with requests := s.pool.requests.filter (· != p) } }
  if p ∈ s.pool.queue then s.setWaitQueue (s.pool.queue.filter (· != p)) else s

/-- Step 2 of the port release (R6): the exerciser is returned, or the wait is given up. -/
def State.giveBack (s : State) (p : PortId) : State :=
  match (s.ctx p).heldExerciser with
  | some e => (s.dropGrant e p).disposeExerciser e
  | none => s.leaveWaitQueue p

/-- The three steps of a first or second stall (R130). -/
def State.requeue (s : State) (e : ExerciserId) (p : PortId) : State :=
  let s := s.dropGrant e p
  (s.setWaitQueue (s.pool.queue ++ [p])).disposeExerciser e

/-- The Pool takes a request (R121): the lowest free exerciser, or the tail of the queue. -/
def State.takeRequest (s : State) (p : PortId) : State :=
  let s := { s with pool := { s.pool with requests := s.pool.requests.filter (· != p) } }
  match s.freeExerciser with
  | some e => s.grantExerciser e p
  | none => s.setWaitQueue (s.pool.queue ++ [p])

/-- Replaces the grant record of the exerciser a port holds. -/
def State.updGrant (s : State) (p : PortId) (f : Grant → Grant) : State :=
  match (s.ctx p).heldExerciser with
  | some e => { s with pool := { s.pool with owners := s.pool.owners.set e (s.pool.owners[e].map f) } }
  | none => s

/-! ### Identity Queue and reader -/

def State.setIdentityQueue (s : State) (q : List PortId) : State :=
  { s with reader := { s.reader with queue := q } }.markHeader

/-- A port joins the tail of the Identity Queue (R65). -/
def State.joinIdentityQueue (s : State) (p : PortId) : State := s.setIdentityQueue (s.reader.queue ++ [p])

/-- The reader drives the idle code and enters GUARD with no port in service (R69). -/
def IdentityReader.toGuard (r : IdentityReader) : IdentityReader := { r with phase := .guardTime, service := none }

/-- A read in progress is aborted (R69): at once in SETTLE and RETRY_GAP, at the end of the byte in TRANSFER. -/
def IdentityReader.abort (r : IdentityReader) : IdentityReader :=
  match r.phase, r.service with
  | .settle, _ => r.toGuard
  | .retryGap, _ => r.toGuard
  | .transfer, some v => { r with service := some { v with aborting := true } }
  | _, _ => r

/-- Step 3 of the port release (R6). -/
def State.leaveIdentity (s : State) (p : PortId) : State :=
  let s := if p ∈ s.reader.queue then s.setIdentityQueue (s.reader.queue.filter (· != p)) else s
  match s.reader.service with
  | some v => if v.port = p then { s with reader := s.reader.abort } else s
  | none => s

end Sys2Proof.Machine
end

