-- ==== Sys2Proof/Machine/Entry.lean ====
section
/-! DEFINITION. The port release, the entry to a state, and the entry actions of each state (R2, R3, R6, R10 to R25). -/

namespace Sys2Proof.Machine

/-! ### Leaving a state -/

/-- The transmitter turns off (R3, R62, R84, R99, R117): framer, channel with its queue, on-state check and meter. -/
def State.turnOff (s : State) (p : PortId) : State :=
  (s.updPort p fun x => { x with framer := resetFramer, channel := resetChannel, onState := ⟨0, 0, false⟩ }).meterClear p

/-- The transmitter turns on (R3, R62, R72). -/
def State.turnOn (s : State) (p : PortId) : State :=
  s.updPort p fun x => { x with framer := x.framer.turnedOn, onState := ⟨0, 0, false⟩ }

/-- QUALIFIED or HANDED, the states that own the lapse timer (R5) and the armed flag (R16). -/
def linkState (st : PortState) : Bool := st == .qualified || st == .handed

/-- The timers of the state being left stop (R5); a lapse goes on between QUALIFIED and HANDED (R22). -/
def Timers.left (t : Timers) (old new : PortState) : Timers :=
  { resetTimers with lapse := if linkState old && linkState new then t.lapse else none }

/-- HANDOVER is deasserted, the block-error window stops and the DEGRADED cause ends, first of all (R6 step 1, R23). -/
def Port.handoverOff (x : Port) : Port :=
  { x with handover := false, degradedCause := false, timers := { x.timers with blockWindow := none } }

/-- What a port does before it enters state `st`: the steps of the port release (R6) as far as they apply. -/
def State.leave (s : State) (p : PortId) (st : PortState) : State :=
  let old := s.portState p
  let s := if old = .handed then s.updPort p Port.handoverOff else s
  let s := (s.giveBack p).leaveIdentity p
  let s := if (s.port p).framer.tx.isSome && !st.transmits then s.turnOff p else s
  s.updPort p fun x => { x with timers := x.timers.left old st }

/-! ### Entering a state -/

/-- The context at a state entry (R2): the state and the stamp; armed is cleared on leaving QUALIFIED and HANDED (R16); the
miswired stage is NONE outside MISWIRED (R24). -/
def Context.entered (c : Context) (st : PortState) (ms : Word) : Context :=
  { c with state := st, stamp := ms, armed := c.armed && (!linkState c.state || linkState st),
           miswiredStage := if st = .miswired then c.miswiredStage else .none }

/-- The port at a state entry: the persistence runs return to 0 (R17), HANDOVER is asserted in HANDED alone (R18), READY is 0
outside QUALIFIED and HANDED (R4), the cause of FAR_OPEN starts absent (R147). -/
def Port.entered (x : Port) (st : PortState) (ms : Word) : Port :=
  { x with ctx := x.ctx.entered st ms, notReadyRun := 0, followRun := 0, handover := st == .handed,
           ready := x.ready && linkState st, farOpenCause := false }

/-- The four things a port does on each state entry (R2). -/
def State.recordEntry (s : State) (p : PortId) (st : PortState) : State :=
  ((s.updPort p fun x => x.entered st s.ms).markDirty p).setSummary .portChange

/-- Forwarded HELLO records waiting at a leg that leaves RELAYING for MISWIRED are discarded and counted (R105). -/
def State.dropForwarded (s : State) (p : PortId) : State :=
  let q := (s.port p).channel.queue
  let n := (q.filter Message.isForwarded).length
  let s := s.updPort p fun x => { x with channel := { x.channel with queue := q.filter fun m => !m.isForwarded } }
  s.updCtx p fun c => { c with relayDrops := Nat.min 65535 (c.relayDrops + n) }

/-- What a state entry does to a check in flight on the port (R159 to R162). -/
def State.checkOnEntry (s : State) (p : PortId) (st : PortState) : State :=
  match s.scan.inFlight with
  | none => s
  | some c =>
    if c.port ≠ p then s
    else match c.kind with
      | .line =>
        if st.transmits then s.endCheck (s.onStateResult p)
        else if lineOffState st then s
        else s.endCheck .notApplicable
      | .peer => if peerCheckState st then s else s.endCheck .notApplicable
      | .delay => if delayCheckState st then s else (s.updMeter p fun m => m.endJob .scan).endCheck .notApplicable
      | _ => s.endCheck .notApplicable

/-- Entry of port `p` to state `st`, up to the entry actions of that state. -/
def State.enter (s : State) (p : PortId) (st : PortState) : State :=
  let old := s.portState p
  let s := ((s.leave p st).recordEntry p st).checkOnEntry p st
  let s := s.updMeter p fun m => m.endJobsOutside st
  if old = .relaying ∧ st = .miswired then s.dropForwarded p else s

/-! ### Entry actions -/

def State.updTimers (s : State) (p : PortId) (f : Timers → Timers) : State :=
  s.updPort p fun x => { x with timers := f x.timers }

/-- SEATED (R8): the port joins the tail of the Identity Queue. -/
def State.enterSeated (s : State) (p : PortId) : State := (s.enter p .seated).joinIdentityQueue p

/-- GREET (R13). -/
def State.enterGreet (s : State) (p : PortId) : State :=
  let s := s.enter p .greet
  let s := s.updPort p fun x => { x with helloDelivered := false, helloHeard := false,
                                         timers := { x.timers with greet := some 0 } }
  s.queueMessage p (ownHello true { noPurposes with greeting := true })

/-- RELAYING (R25). -/
def State.enterRelaying (s : State) (p : PortId) : State := (s.enter p .relaying).startJob p .leg

/-- The lock condition of R12 in LISTEN. -/
def State.lockInListen (s : State) (p : PortId) : State := if s.isRelay p then s.enterRelaying p else s.enterGreet p

/-- What entry to LISTEN clears in the context (R11). -/
def Context.listening (c : Context) : Context :=
  { c with nbe := 0, fbe := 0, lapseCount := 0, relayDrops := 0, windowCount := 0, stallCount := 0, peer := none,
           length := none, results := none }

/-- LISTEN (R11): the transmitter turns on where it is off (R3); a framer that is LOCKED takes the port on at once. -/
def State.enterListen (s : State) (p : PortId) : State :=
  let s := ((s.enter p .listen).updCtx p Context.listening).meterClear p
  let s := s.updTimers p fun t => { t with lockSearch := some 0 }
  let s := if (s.port p).framer.tx.isSome then s else s.turnOn p
  if (s.port p).framer.lock = .locked then s.lockInListen p else s

/-- MEASURE (R14). -/
def State.enterMeasure (s : State) (p : PortId) : State :=
  ((s.enter p .measure).updTimers p fun t => { t with peerDelay := some 0 }).startJob p .measure

/-- EXERCISE (R15): the request for an exerciser waits for the Pool (log 10). -/
def State.enterExercise (s : State) (p : PortId) : State :=
  let s := s.enter p .exercise
  { s with pool := { s.pool with requests := s.pool.requests ++ [p] } }

/-- READY as R16 works it out. -/
def State.readyValue (s : State) (p : PortId) : Bool :=
  !(s.ctx p).inhibited && ((s.entry p).policy == .auto || (s.ctx p).armed)

def State.setReady (s : State) (p : PortId) : State := s.updPort p fun x => { x with ready := s.readyValue p }

/-- HANDED (R18): HANDOVER is asserted, the window count is 0 and the first window starts. -/
def State.enterHanded (s : State) (p : PortId) : State :=
  let s := (s.enter p .handed).setReady p
  (s.updCtx p fun c => { c with windowCount := 0 }).updTimers p fun t => { t with blockWindow := some 0 }

/-- The handover test of R18. It does not ask whether the entry has become RELAY since (log 54). -/
def State.handoverTest (s : State) (p : PortId) : State :=
  let x := s.port p
  match x.framer.effective with
  | some w => if x.ctx.state = .qualified ∧ x.ready ∧ wordOffersHandover w then s.enterHanded p else s
  | none => s

/-- QUALIFIED (R16, R18). -/
def State.enterQualified (s : State) (p : PortId) : State := ((s.enter p .qualified).setReady p).handoverTest p

/-- MISWIRED at a stage (R24): without lock the port goes on to LISTEN. -/
def State.enterMiswired (s : State) (p : PortId) (stage : MiswiredStage) : State :=
  let s := (s.updCtx p fun c => { c with miswiredStage := stage }).enter p .miswired
  if (s.port p).framer.lock = .locked then s else s.enterListen p

/-- The class period in milliseconds (R141). -/
def classPeriod (c : BitVec 2) : Nat :=
  match c.toNat with
  | 0 => 8
  | 1 => 32
  | 2 => 128
  | _ => 512

/-- The length of a retry period at its start (R141). -/
def State.retryLength (s : State) (p : PortId) : Nat :=
  classPeriod (s.entry p).retryClass * (if (s.ctx p).retryFull then 4 else 1)

/-- RETRY_WAIT (R141). -/
def State.enterRetryWait (s : State) (p : PortId) : State :=
  let n := s.retryLength p
  (s.enter p .retryWait).updTimers p fun t => { t with retryLength := some n, retryRemaining := some n }

/-- Where a transition leads: a state, with the stage for MISWIRED. -/
inductive Target where
  | plain (st : PortState)
  | seated
  | listen
  | greet
  | measure
  | exercise
  | qualified
  | handed
  | miswired (stage : MiswiredStage)
  | relaying
  | retryWait
  deriving DecidableEq, Repr

/-- Takes a port to a target. While RUN is 0 a HANDED port enters DORMANT in place of it (R32). -/
def State.goTo (s : State) (p : PortId) (t : Target) : State :=
  if !s.run && s.portState p == .handed then s.enter p .dormant
  else match t with
    | .plain st => s.enter p st
    | .seated => s.enterSeated p
    | .listen => s.enterListen p
    | .greet => s.enterGreet p
    | .measure => s.enterMeasure p
    | .exercise => s.enterExercise p
    | .qualified => s.enterQualified p
    | .handed => s.enterHanded p
    | .miswired stage => s.enterMiswired p stage
    | .relaying => s.enterRelaying p
    | .retryWait => s.enterRetryWait p

end Sys2Proof.Machine
end

