-- ==== Sys2Proof/Machine/Controller.lean ====
section
/-! DEFINITION. What a port controller does on the reports of its blocks: faults, verdicts, lock, messages, lengths, words,
windows, pulls and restarts (R10 to R31, R46 to R50, R100 to R115, R129 to R135, R140 to R142). -/

namespace Sys2Proof.Machine

/-! ### Faults and the retry decision (R26, R140) -/

/-- The last decision row of R140 that latches; combinations the table leaves out fall by policy and counter (log 17). -/
def State.latches (s : State) (p : PortId) : Bool :=
  match (s.entry p).retryPolicy with
  | .noRetry => true
  | .unlimited => false
  | .limited => (s.ctx p).retryCounter ≥ 16

/-- RETRY_FULL after the decision (R140). -/
def State.fillsRetry (s : State) (p : PortId) : Bool :=
  (s.entry p).retryPolicy == .limited && (s.ctx p).retryCounter == 15

/-- Where the retry decision leads (R140). -/
def State.faultsTo (s : State) (p : PortId) : PortState := if s.latches p then .latched else .retryWait

/-- The retry decision (R140). The port release is part of the entry it leads to. -/
def State.retryDecision (s : State) (p : PortId) : State :=
  let s := s.updCtx p fun c => { c with retryFull := c.retryFull || s.fillsRetry p }
  if s.latches p then s.goTo p (.plain .latched) else s.goTo p .retryWait

/-- A retryable fault (R26): the code, the release, the decision; a HANDED port with RUN 0 makes no decision. -/
def State.fault (s : State) (p : PortId) (code : FaultCode) : State :=
  let s := s.updCtx p fun c => { c with lastFault := code }
  if !s.run && s.portState p == .handed then s.goTo p (.plain .dormant) else s.retryDecision p

/-- The counter after a retry period (R142, log 17). -/
def State.steppedCounter (s : State) (p : PortId) : Nat :=
  let c := s.ctx p
  match (s.entry p).retryPolicy with
  | .limited => if c.retryFull then 16 else satInc 15 c.retryCounter
  | .unlimited => satInc 15 c.retryCounter
  | .noRetry => c.retryCounter

/-- The retry counter is set to 0 and RETRY_FULL cleared (R145). -/
def State.clearRetriesAt (s : State) (p : PortId) : State :=
  s.updCtx p fun c => { c with retryCounter := 0, retryFull := false }

/-! ### Verdicts (R46 to R50) -/

/-- A verdict sets the last verdict and the mask and marks the port dirty (R48). -/
def State.recordVerdict (s : State) (p : PortId) (m : VerdictMask) : State :=
  (s.updCtx p fun c => { c with lastVerdict := m.verdict, verdictMask := m }).markDirty p

/-- MEDIA_UNVERIFIED (R47): check 3 is evaluated and the stored cable identity is not VALID. -/
def State.flagUnverified (s : State) (p : PortId) : State := s.setFlagIf (!(s.ctx p).cable.isValid) p .mediaUnverified

/-- EPOCH_DIFFERS (R50). -/
def State.flagEpoch (s : State) (p : PortId) : State :=
  match (s.ctx p).peer with
  | some i => s.setFlagIf (i.epoch != s.plan.epoch) p .epochDiffers
  | none => s

/-- Runs a wiring verdict, a length verdict or a re-verdict, with `length` the length it judges (R46 to R50). -/
def State.judge (s : State) (p : PortId) (length : Option Nat) : State × VerdictMask :=
  let c := s.ctx p
  let m := portChecks (s.entry p) c.cable c.peer length
  let s := if (s.entry p).effective = .unplanned then s else s.flagUnverified p
  ((s.flagEpoch p).recordVerdict p m, m)

/-- Runs a leg verdict (R48). -/
def State.judgeLeg (s : State) (p : PortId) : State × VerdictMask :=
  let c := s.ctx p
  let m := legChecks (s.entry p) c.cable c.length
  ((s.flagUnverified p).recordVerdict p m, m)

/-- The wiring verdict (R13). A port in GREET goes on as a port though its entry has become RELAY (log 54). -/
def State.wiringVerdict (s : State) (p : PortId) : State :=
  let (s, m) := s.judge p none
  if m.verdict = .matched then s.goTo p .measure else s.goTo p (.miswired .greet)

/-- The length verdict (R14). A port in MEASURE goes on to EXERCISE though its entry has become RELAY (log 54). -/
def State.lengthVerdict (s : State) (p : PortId) : State :=
  let (s, m) := s.judge p (s.ctx p).length
  if m.verdict = .matched then s.goTo p .exercise else s.goTo p (.miswired .measure)

def State.setStage (s : State) (p : PortId) (stage : MiswiredStage) : State :=
  s.updCtx p fun c => { c with miswiredStage := stage }

/-- The leg verdict and its result (R25, R49). -/
def State.legVerdict (s : State) (p : PortId) : State :=
  let (s, m) := s.judgeLeg p
  if s.portState p = .miswired then
    if m.verdict = .matched then s.goTo p .relaying else s.setStage p .measure
  else if m.verdict = .matched then s
  else s.goTo p (.miswired .measure)

/-- Resumption from MISWIRED on MATCH (R24, log 31). A former leg resumes here as a port (log 54). -/
def State.resume (s : State) (p : PortId) : State :=
  match (s.ctx p).miswiredStage with
  | .greet => s.goTo p .measure
  | .measure => s.goTo p .exercise
  | .none => s

/-- The re-verdict and its result (R49); in MISWIRED a leg judges as a leg (R25). Before a notice of a type change is taken, RELAYING is a leg
and MISWIRED one by the entry in effect (log 54). -/
def State.reVerdict (s : State) (p : PortId) : State :=
  if s.portState p = .relaying ∨ (s.portState p = .miswired ∧ s.isRelay p) then s.legVerdict p
  else
    let (s, m) := s.judge p (s.ctx p).length
    if m.verdict = .matched then (if s.portState p = .miswired then s.resume p else s)
    else if s.portState p = .miswired then s.setStage p m.stage
    else s.goTo p (.miswired m.stage)

/-! ### The block-error budget (R23) -/

/-- The comparison with T, up to the fault: the DEGRADED cause and flag. With T = 0 none is made (log 18). -/
def State.budgetCause (s : State) (p : PortId) : State :=
  let t := (s.entry p).threshold
  if t = 0 then s
  else
    let above := decide ((s.ctx p).windowCount > t)
    (s.updPort p fun x => { x with degradedCause := above }).setFlagIf above p .degraded

/-- The window count is greater than 4 T, with T > 0. -/
def State.budgetSpent (s : State) (p : PortId) : Bool :=
  decide ((s.entry p).threshold > 0) && decide ((s.ctx p).windowCount > 4 * (s.entry p).threshold)

/-- The comparison of R23 in HANDED. -/
def State.budgetCompare (s : State) (p : PortId) : State :=
  if s.portState p = .handed then
    let s := s.budgetCause p
    if s.budgetSpent p then s.fault p .linkErrors else s
  else s

/-! ### Lock (R12, R17, R22, R24) -/

def State.zeroRuns (s : State) (p : PortId) : State := s.updPort p fun x => { x with notReadyRun := 0, followRun := 0 }

/-- Lock gained at the channel, the meter and then the controller (R77, R99, R117). -/
def State.lockGained (s : State) (p : PortId) : State :=
  let s := s.updPort p fun x => { x with channel := x.channel.reset }
  let s := (s.meterClear p).zeroRuns p
  if s.portState p = .listen then s.lockInListen p
  else if linkState (s.portState p) && (s.port p).timers.lapse.isSome then
    (s.updTimers p fun t => { t with lapse := none }).updCtx p fun c => { c with lapseCount := satInc 65535 c.lapseCount }
  else s

/-- What lock lost does by the port's state (R13 to R15, R22, R24, R25). -/
def State.lockLostByState (s : State) (p : PortId) : State :=
  match s.portState p with
  | .greet => s.fault p .lockLost
  | .measure => s.fault p .lockLost
  | .exercise => s.fault p .lockLost
  | .relaying => s.fault p .lockLost
  | .qualified => s.updTimers p fun t => { t with lapse := some 0 }
  | .handed => s.updTimers p fun t => { t with lapse := some 0 }
  | .miswired => s.goTo p .listen
  | _ => s

/-- The state that lock lost takes a port to; its own where it stays (R13 to R15, R22, R24, R25, R140). -/
def State.lockLossState (s : State) (p : PortId) : PortState :=
  match s.portState p with
  | .greet => s.faultsTo p
  | .measure => s.faultsTo p
  | .exercise => s.faultsTo p
  | .relaying => s.faultsTo p
  | .miswired => .listen
  | st => st

/-- A check in flight meets the entry to the state that lock lost takes its port to (R159). -/
def State.lossEntryAtCheck (s : State) (p : PortId) : State :=
  let st := s.lockLossState p
  if st = s.portState p then s else s.checkOnEntry p st

/-- Lock lost (R78, R99, R117): the channel with its queue, a check in flight, the meter, then the controller. The check takes the entry to
the port's next state before the lock loss where the sender says so (R159, log 51). -/
def State.lockLost (s : State) (p : PortId) (entryFirst : Bool) : State :=
  let s := if entryFirst then s.lossEntryAtCheck p else s
  let s := s.updPort p fun x => { x with channel := resetChannel }
  let s := ((s.endCheckOn p .peer .abandoned).meterClear p).zeroRuns p
  s.lockLostByState p

/-! ### Reports of the meter (R111, R115) -/

/-- A MEASURE job completes (R115): the record decides between a length and DELAY_UNSTABLE. -/
def State.completeMeasure (s : State) (p : PortId) : State :=
  let m := (s.port p).meter
  match m.ownL2, m.peerRecord with
  | some own, some r =>
    if r.unstable then s.fault p .delayUnstable
    else ((s.updMeter p fun m => m.endJob .measure).storeLength p own r).lengthVerdict p
  | _, _ => s

/-- A LEG job, a SCAN job, or both complete (R115): one length and one report. The scheduler has its result before the port
judges (log 21). -/
def State.completeOthers (s : State) (p : PortId) (leg scan : Bool) : State :=
  let m := (s.port p).meter
  let s := s.updMeter p fun m => if leg then m.endJob .leg else m
  let s := s.updMeter p fun m => if scan then m.endJob .scan else m
  match m.ownL2, m.peerRecord with
  | some own, some r =>
    if r.unstable then (if scan then s.endCheckOn p .delay .unstable else s)
    else
      let s := s.storeLength p own r
      let s := if scan then s.endCheckOn p .delay .length else s
      s.reVerdict p
  | _, _ => s

/-- Jobs that have their last mark complete (R115). -/
def State.completeJobs (s : State) (p : PortId) : State :=
  let m := (s.port p).meter
  if jobComplete m.measureJob then s.completeMeasure p
  else if jobComplete m.legJob || scanComplete m.scanJob then
    s.completeOthers p (jobComplete m.legJob) (scanComplete m.scanJob)
  else s

/-- A measurement ends unstable (R111). Where no job takes part any more, no DELAY is queued (log 44). -/
def State.measurementUnstable (s : State) (p : PortId) : State :=
  let m := (s.port p).meter
  let s := s.updMeter p Meter.toIdle
  if takesPart m.measureJob then s.fault p .delayUnstable
  else
    let s := s.updMeter p fun m =>
      { m with legJob := if takesPart m.legJob then none else m.legJob,
               scanJob := if takesPart m.scanJob then none else m.scanJob, answerJob := none }
    let s := if takesPart m.legJob || takesPart m.scanJob || takesPart m.answerJob then s.queueMessage p unstableDelay else s
    if takesPart m.scanJob then s.endCheckOn p .delay .unstable else s

/-! ### Results of messages (R93, R95) -/

/-- A message has been delivered (R93, R112). -/
def State.messageDelivered (s : State) (p : PortId) (m : Message) : State :=
  let s := s.updMeter p fun x => { x with measureJob := markDelivered m.purposes.measurement x.measureJob,
                                          legJob := markDelivered m.purposes.measurement x.legJob }
  if m.purposes.greeting && s.portState p == .greet then
    let s := s.updPort p fun x => { x with helloDelivered := true }
    if (s.port p).helloHeard then s.wiringVerdict p else s
  else s.completeJobs p

/-- On a relay leg a failed message of purpose MEASUREMENT ends the LEG job present, whichever measurement sent it: the failure is taken
in the state of that moment (R95, R112). -/
def endLegOf (ms : List Nat) (m : Meter) : Meter := if ms ≠ [] ∧ m.legJob.isSome then m.endJob .leg else m

/-- A failed message of a SCAN check still in flight ends it, and the SCAN job with it (R95, R161, R162). -/
def State.scanMessageFailed (s : State) (p : PortId) (m : Message) : State :=
  match s.scan.inFlight with
  | some c =>
    if c.port = p ∧ c.number ∈ m.purposes.scan then
      (if c.kind = .delay then s.updMeter p fun x => x.endJob .scan else s).endUnanswered p c.kind
    else s
  | none => s

/-- A message has failed after its fourth attempt (R95). -/
def State.messageFailed (s : State) (p : PortId) (m : Message) : State :=
  let s := if m.purposes.relay then s.updCtx p fun c => { c with relayDrops := satInc 65535 c.relayDrops } else s
  let s := (s.scanMessageFailed p m).updMeter p (endLegOf m.purposes.measurement)
  if (m.purposes.greeting && s.portState p == .greet) || (!m.purposes.measurement.isEmpty && s.portState p == .measure) then
    s.fault p .channelFail
  else s

/-- An attempt fails (R95): a new attempt with its gap, or after the fourth the message has failed. -/
def State.attemptFailed (s : State) (p : PortId) : State :=
  let c := (s.port p).channel
  match c.sending with
  | none => s
  | some m =>
    if c.attempt < 4 then
      s.updPort p fun x => { x with channel := x.channel.beginAttempt m (c.attempt + 1) (s.buildMessage p m) }
    else (s.updPort p fun x => { x with channel := x.channel.endMessage }).messageFailed p m

/-- The check byte has been taken with this J (R93): delivered, or a failed attempt. -/
def State.attemptEnded (s : State) (p : PortId) (j : Bool) : State :=
  let c := (s.port p).channel
  let s := s.updPort p fun x => { x with channel := { x.channel with lastTakeS := x.channel.offeredS } }
  if j then s.attemptFailed p
  else match c.sending with
    | some m => (s.updPort p fun x => { x with channel := x.channel.endMessage }).messageDelivered p m
    | none => s

/-- The sender's half of a received frame (R92). -/
def State.senderTakes (s : State) (p : PortId) (k j : Bool) : State :=
  let c := (s.port p).channel
  if c.seesTake k j then
    if c.onCheckByte then s.attemptEnded p j else s.updPort p fun x => { x with channel := x.channel.nextByte }
  else s.updPort p fun x => { x with channel := x.channel.noteAck k j }

/-! ### Received messages (R100 to R103) -/

/-- The receiving leg drops a HELLO and counts it (R102, R103). -/
def State.countDrop (s : State) (p : PortId) : State :=
  s.updCtx p fun c => { c with relayDrops := satInc 65535 c.relayDrops }

/-- A HELLO accepted on a leg in RELAYING (R102). -/
def State.forwardHello (s : State) (p : PortId) (i : PeerIdentity) (rr : Bool) : State :=
  match s.partner p with
  | some q =>
    if i.hops.toNat < 3 ∧ s.portState q = .relaying then
      s.queueMessage q { body := .hello (.forwarded { i with hops := i.hops + 1 }) rr,
                         purposes := { noPurposes with relay := true } }
    else s.countDrop p
  | none => s.countDrop p

def State.storePeer (s : State) (p : PortId) (i : PeerIdentity) : State :=
  s.updCtx p fun c => { c with peer := some i }

def State.answerIf (s : State) (b : Bool) (p : PortId) : State := if b then s.queueMessage p answerHello else s

/-- A HELLO in GREET (R13, R100). -/
def State.helloInGreet (s : State) (p : PortId) (i : PeerIdentity) (rr : Bool) : State :=
  let delivered := (s.port p).helloDelivered
  let s := (s.storePeer p i).updPort p fun x => { x with helloHeard := true }
  let s := s.answerIf (rr && delivered) p
  if delivered then s.wiringVerdict p else s

/-- A HELLO accepted by the receiver (R100, R102, R103, R161); a PEER check ends first. What a port is, is its state's, and in MISWIRED its
entry's in effect (logs 32 and 54). -/
def State.helloReceived (s : State) (p : PortId) (i : PeerIdentity) (rr : Bool) : State :=
  let s := if rr then s else s.endCheckOn p .peer .replied
  match s.portState p with
  | .relaying => s.forwardHello p i rr
  | .greet => s.helloInGreet p i rr
  | .measure => (s.storePeer p i).answerIf rr p
  | .exercise => s.answerIf rr p
  | .qualified => ((s.storePeer p i).answerIf rr p).reVerdict p
  | .handed => ((s.storePeer p i).answerIf rr p).reVerdict p
  | .miswired => if s.isRelay p then s.countDrop p else ((s.storePeer p i).answerIf rr p).reVerdict p
  | _ => s

/-- A DELAY in MEASURE (R101, R114). -/
def State.delayInMeasure (s : State) (p : PortId) (r : DelayRecord) : State :=
  let m := (s.port p).meter
  let s := s.updMeter p fun m => m.takeRecord r
  let delivered := match m.measureJob with | some j => j.delivered | none => false
  let s := match m.ownL2 with
    | some l2 => if !r.answer && delivered then s.queueMessage p (requeuedDelay l2) else s
    | none => s
  s.completeJobs p

/-- A DELAY in the answering states (R101, R113). -/
def State.delayInAnswering (s : State) (p : PortId) (r : DelayRecord) : State :=
  let m := (s.port p).meter
  if !r.answer then (((s.updMeter p fun m => m.takeRecord r).startJob p .answer).completeJobs p)
  else if m.scanJob.isSome || m.legJob.isSome then (s.updMeter p fun m => m.takeRecord r).completeJobs p
  else s

/-- A DELAY accepted by the receiver (R101). -/
def State.delayReceived (s : State) (p : PortId) (r : DelayRecord) : State :=
  match s.portState p with
  | .greet => s.updMeter p fun m => m.takeRecord r
  | .measure => s.delayInMeasure p r
  | .exercise => s.delayInAnswering p r
  | .qualified => s.delayInAnswering p r
  | .handed => s.delayInAnswering p r
  | .miswired => s.delayInAnswering p r
  | .relaying => s.delayInAnswering p r
  | _ => s

def State.acceptMessage (s : State) (p : PortId) (m : Accepted) : State :=
  match m with
  | .hello i rr => s.helloReceived p i rr
  | .delay r => s.delayReceived p r

/-- The receiver's half of a received frame (R96 to R98). -/
def State.receiverTakes (s : State) (p : PortId) (f : FrameFields) : State :=
  let r := (s.port p).channel.receive f
  let s := s.updPort p fun x => { x with channel := r.1 }
  match r.2 with
  | some m => s.acceptMessage p m
  | none => s

/-! ### Exercise windows (R130 to R135) -/

/-- The counts of the live lanes are copied to the context (R133). -/
def State.copyCounts (s : State) (p : PortId) (g : Grant) : State :=
  (s.updCtx p fun c => { c with results := c.results.map fun r =>
    { r with errors := Vector.ofFn fun i => if r.live[i] then g.checkers[i].errors else r.errors[i] } }).markDirty p

/-- A stall (R130). -/
def State.stall (s : State) (p : PortId) : State :=
  let s := s.updCtx p fun c => { c with stallCount := satInc 3 c.stallCount }
  match (s.ctx p).heldExerciser with
  | some e => if (s.ctx p).stallCount < 3 then s.requeue e p else (s.giveBack p).fault p .peerStall
  | none => s

/-- The lanes of an exerciser in ascending order. -/
def allLanes : List LaneId := [0, 1, 2, 3]

/-- Check 1 of the evaluation (R135): a lane under test is dead, or a live lane's count is above the allowance. -/
def laneFails (e : Entry) (lanes : Nat) (r : ExerciseResults) : Bool :=
  allLanes.any fun i => decide (i.val < lanes) && (!r.live[i] || decide (r.errors[i] > e.allowance))

/-- Check 2 of the evaluation (R135). -/
def skewFails (e : Entry) (r : ExerciseResults) : Bool :=
  match r.skew with
  | some k => k > e.skewLimit
  | none => false

/-- The end of the soak (R133, R135): counts copied, exerciser returned, window evaluated. -/
def State.endSoak (s : State) (p : PortId) (g : Grant) : State :=
  let s := (s.copyCounts p g).giveBack p
  match (s.ctx p).results with
  | some r =>
    if laneFails (s.entry p) g.lanes r then s.fault p .errorRate
    else if skewFails (s.entry p) r then s.fault p .skew
    else s.goTo p .qualified
  | none => s

/-- The peer has stopped early (R134). -/
def State.peerStopped (s : State) (p : PortId) (g : Grant) : State :=
  if g.phase = .soak ∧ g.units ≥ 1 then (s.setFlag p .shortSoak).endSoak p g else s.stall p

/-- The window opens (R129). -/
def State.openWindow (s : State) (p : PortId) : State :=
  (s.updGrant p fun g => { g with phase := .training, phaseCount := 0, peerStop := 0 }).updTimers p
    fun t => { t with peerStart := none }

/-- What the Pool does with an effective word of a port that holds a grant (R128, R129, R134). -/
def State.wordAtPool (s : State) (p : PortId) (w : BitVec 8) : State :=
  match s.grantOf p with
  | none => s
  | some g =>
    if g.phase = .start then (if wordOpensWindow w then s.openWindow p else s)
    else
      let run := if wordTrain w then 0 else satInc 2 g.peerStop
      let s := s.updGrant p fun g => { g with peerStop := run }
      if run = 2 then s.peerStopped p { g with peerStop := run } else s

/-! ### Effective words (R17 to R20, R83) -/

/-- The persistence runs after a delivered word (R17). -/
def Port.countWord (x : Port) (w : BitVec 8) : Port :=
  { x with notReadyRun := if wordNotReady w then satInc 2 x.notReadyRun else 0,
           followRun := if inFollowSet (wordStage w) then satInc 2 x.followRun else 0 }

/-- Drop-back (R19). -/
def State.dropBack (s : State) (p : PortId) : State :=
  (s.updCtx p fun c => { c with armed := false }).goTo p .qualified

/-- What a delivered word does by the port's state (R18 to R20, R128). -/
def State.wordByState (s : State) (p : PortId) (w : BitVec 8) : State :=
  let x := s.port p
  match x.ctx.state with
  | .qualified => if x.followRun = 2 then s.goTo p .listen else s.handoverTest p
  | .handed =>
    if x.followRun = 2 then s.fault p .peerWithdrew
    else if x.notReadyRun = 2 then s.dropBack p
    else s
  | .exercise => s.wordAtPool p w
  | _ => s

/-- A word has become effective and is delivered (R83): FBE is counted first, then the port acts (log 41). -/
def State.wordDelivered (s : State) (p : PortId) (w : BitVec 8) : State :=
  let s := if wordFbe w then s
    else (s.updCtx p fun c => { c with fbe := satInc 65535 c.fbe }).markDirty p
  (s.updPort p fun x => x.countWord w).wordByState p w

/-- A CRC mismatch (R82): NBE, the FBE request, and then the block error notice in HANDED (R23, log 41). -/
def State.blockError (s : State) (p : PortId) : State :=
  let s := (s.updCtx p fun c => { c with nbe := satInc 65535 c.nbe }).markDirty p
  let s := s.updPort p fun x => { x with framer := { x.framer with fbeRequest := true } }
  if s.portState p = .handed then
    (s.updCtx p fun c => { c with windowCount := satInc 65535 c.windowCount }).budgetCompare p
  else s

/-! ### Presence and restart (R8, R28, R31) -/

/-- The resets of a cable pull (R28). -/
def Context.pulled (c : Context) : Context :=
  { c with retryCounter := 0, retryFull := false, cable := .none, peer := none, length := none, results := none,
           armed := false, inhibited := false }

/-- The states beyond SEATED (R28). -/
def beyondSeated (st : PortState) : Bool :=
  st != .dormant && st != .vacant && st != .seated && st != .held

/-- Presence lost (R28). -/
def State.cablePull (s : State) (p : PortId) : State :=
  let st := s.portState p
  if st = .dormant ∨ st = .held then s.updCtx p Context.pulled
  else ((s.goTo p (.plain .vacant)).updCtx p Context.pulled).setFlagIf (beyondSeated st) p .cablePulled

/-- Presence gained (R8). -/
def State.presenceGained (s : State) (p : PortId) : State := if s.portState p = .vacant then s.goTo p .seated else s

/-- A restart (R31, R43): SEATED or VACANT by debounced presence, from every state but DORMANT and HELD. -/
def State.restartPort (s : State) (p : PortId) : State :=
  let st := s.portState p
  if st = .dormant ∨ st = .held then s
  else if maskHas s.debounced p then s.goTo p .seated
  else s.goTo p (.plain .vacant)

/-- Ports in DORMANT leave it, in ascending order (R7). -/
def State.leaveDormant (s : State) : State :=
  forPorts allPorts (fun p s =>
    if s.portState p = .dormant then
      (if maskHas s.debounced p then s.goTo p .seated else s.goTo p (.plain .vacant))
    else s) s

/-- Every port not in HANDED performs the port release and enters DORMANT (R32, R33, log 33). -/
def State.stopPorts (s : State) : State :=
  forPorts allPorts (fun p s => if s.portState p = .handed then s else s.goTo p (.plain .dormant)) s

end Sys2Proof.Machine
end

