-- ==== Sys2Proof/Machine/Exercise.lean ====
section
/-! DEFINITION. The Exerciser Pool's events: grants, selector loads, lane checkers and the phases of a window (R121, R124,
R126, R127, R129 to R135). -/

namespace Sys2Proof.Machine

/-! ### Grants and selector loads -/

/-- EXERCISER_GRANT (R121): the Pool takes the port's request (log 10). -/
def execExerciserGrant (p : PortId) (s : State) : Host.Outcome State Fault Refusal :=
  if p ∈ s.pool.requests then .next (s.takeRequest p) else .next s

/-- The selector codes as they stand, port 0 first. -/
def State.selectorCodes (s : State) : Vector (Option ExerciserId) 24 := Vector.ofFn fun p => s.ports[p].selectorCode

/-- The bits of a load in the order sent: port 23 first, three bits each, most significant first (R124). -/
def loadBits (codes : Vector (Option ExerciserId) 24) : List Bool :=
  allPorts.reverse.flatMap fun p => bitsOf (selectorBits codes[p])

/-- LANE_SELECTOR_LOAD_START (R124): with a change to load and no load in progress. -/
def execLaneSelectorLoadStart (s : State) : Host.Outcome State Fault Refusal :=
  if s.selector.loading.isNone ∧ s.selector.changePending then
    .next { s with selector := { s.selector with loading := some s.selectorCodes, changePending := false } }
  else .next s

/-- LANE_SELECTOR_LOAD_DONE (R124): at the strobe the external selector takes the codes that were shifted. -/
def execLaneSelectorLoadDone (s : State) : Host.Outcome State Fault Refusal :=
  match s.selector.loading with
  | some codes => .next { s with selector := { s.selector with loading := none, strobed := some codes } }
  | none => .next s

/-! ### Lane checkers (R126, R127) -/

/-- Replaces the checker of a lane of a grant. -/
def Grant.setChecker (g : Grant) (i : LaneId) (c : Checker) : Grant := { g with checkers := g.checkers.set i c }

/-- Replaces the checker of a lane of an exerciser that is owned. -/
def State.setChecker (s : State) (e : ExerciserId) (i : LaneId) (c : Checker) : State :=
  match s.pool.owners[e] with
  | some g => s.setOwner e (some (g.setChecker i c))
  | none => s

/-- The checker of a lane, where the exerciser is owned, with the grant's phase. -/
def State.checker (s : State) (e : ExerciserId) (i : LaneId) : Option (Checker × GrantPhase) :=
  match s.pool.owners[e] with
  | some g => some (g.checkers[i], g.phase)
  | none => none

/-- CHECKER_MARKER_FOUND (R126, log 14): in SEARCH, the last 23 bits received equal the lane's seed. -/
def execCheckerMarkerFound (e : ExerciserId) (lane : LaneBits) (ui : Nat) (s : State) : Host.Outcome State Fault Refusal :=
  let i := lane.lane
  match s.checker e i with
  | some (c, _) =>
    if c.state = .search ∧ lane.bits = bitsOf (laneSeed i) then
      .next (s.setChecker e i { c with state := .proving 0, predictor := laneSeed i, position := 0, arrivals := [ui] })
    else .next s
  | none => .next s

/-- The checker that enters LOCKED with the received bits `bits`: all predicted rightly, the last of them the 64th in a row (R126). -/
def Checker.locksWith (c : Checker) (i : LaneId) (bits : List Bool) : Option Checker :=
  match c.followRight i bits with
  | some d => if d.state = .proving 64 then some { d with state := .locked } else none
  | none => none

/-- CHECKER_LOCKED (R126); the marker found is the first marker arrival. -/
def execCheckerLocked (e : ExerciserId) (lane : LaneBits) (s : State) : Host.Outcome State Fault Refusal :=
  match s.checker e lane.lane with
  | some (c, _) =>
    match c.locksWith lane.lane lane.bits with
    | some d => .next (s.setChecker e lane.lane d)
    | none => .next s
  | none => .next s

/-- The checker in LOCKED that reaches its expected marker position with `bits` (R127): `runBits` bits after the marker before it reloads
its predictor and records the arrival. -/
def Checker.arrivesWith (c : Checker) (i : LaneId) (bits : List Bool) (ui : Nat) : Option Checker :=
  match c.followRight i bits with
  | some d =>
    if d.state = .locked ∧ d.position = runBits then
      some { d with predictor := laneSeed i, position := 0, arrivals := ui :: d.arrivals }
    else none
  | none => none

/-- MARKER_ARRIVAL (R127). -/
def execMarkerArrival (e : ExerciserId) (lane : LaneBits) (ui : Nat) (s : State) : Host.Outcome State Fault Refusal :=
  match s.checker e lane.lane with
  | some (c, _) =>
    match c.arrivesWith lane.lane lane.bits ui with
    | some d => .next (s.setChecker e lane.lane d)
    | none => .next s
  | none => .next s

/-- The checker at a received bit that differs from its prediction (R126, R127): PROVING returns to SEARCH; a locked one keeps its place,
and in SOAK counts the error. -/
def Checker.erred (c : Checker) (i : LaneId) (phase : GrantPhase) : Checker :=
  if c.state = .locked then { c.follow i with errors := if phase = .soak then satInc 65535 c.errors else c.errors }
  else { c with state := .search, arrivals := [] }

/-- The checker predicts one more bit before its next lock or marker arrival (R126, R127). -/
def Checker.predicts (c : Checker) : Bool :=
  match c.state with
  | .proving n => decide (n < 64)
  | .locked => decide (c.position < runBits)
  | _ => false

/-- The checker that errs on the last of the received bits `bits`, after right ones. -/
def Checker.errsWith (c : Checker) (i : LaneId) (bits : List Bool) (phase : GrantPhase) : Option Checker :=
  match c.followRight i bits.dropLast, bits.getLast? with
  | some d, some last => if d.predicts ∧ last ≠ d.predicted i then some (d.erred i phase) else none
  | _, _ => none

/-- LANE_CHECKER_ERROR (R126, R127). -/
def execLaneCheckerError (e : ExerciserId) (lane : LaneBits) (s : State) : Host.Outcome State Fault Refusal :=
  match s.checker e lane.lane with
  | some (c, phase) =>
    match c.errsWith lane.lane lane.bits phase with
    | some d => .next (s.setChecker e lane.lane d)
    | none => .next s
  | none => .next s

/-! ### The window -/

/-- The recorded marker nearest the reference (R131); between two equally near the choice is free (log 15). -/
def nearestMarker (ref : Nat) : List Nat → Option Nat
  | [] => none
  | a :: rest =>
    match nearestMarker ref rest with
    | none => some a
    | some b =>
      if absDiff a ref < absDiff b ref then some a
      else if absDiff b ref < absDiff a ref then some b
      else if a = b then some a
      else if Config.markerTie ref a b then some a
      else some b

/-- Whether a lane under test is live: its checker is LOCKED at the end of training (R131). -/
def Grant.laneLive (g : Grant) (i : LaneId) : Bool := decide (i.val < g.lanes) && g.checkers[i].state == .locked

/-- The reference: the most recent marker of lane 0, where it is live (R131). -/
def Grant.reference (g : Grant) : Option Nat := if g.laneLive 0 then g.checkers[0].arrivals.head? else none

/-- A live lane's offset before its clamp (R131). -/
def Grant.rawOffset (g : Grant) (ref : Nat) (i : LaneId) : Option Int :=
  if g.laneLive i then (nearestMarker ref g.checkers[i].arrivals).map fun a => 64 + ((a : Int) - (ref : Int)) else none

/-- An offset clamped to 0 to 127 (R131). -/
def clampOffset (n : Int) : Nat := if n > 127 then 127 else n.toNat

/-- The clamp changes an offset. -/
def offsetClamped (n : Int) : Bool := decide (n < 0) || decide (n > 127)

/-- The offsets of the live lanes, before their clamp. -/
def Grant.rawOffsets (g : Grant) (ref : Nat) : List Int := allLanes.filterMap (g.rawOffset ref)

/-- The largest and the smallest of the clamped offsets. -/
def largest (ns : List Nat) : Nat := ns.foldl Nat.max 0
def smallest (ns : List Nat) : Nat := ns.foldl Nat.min 127

/-- The exercise results at the start of SOAK (R132). -/
def Grant.results (g : Grant) : ExerciseResults :=
  let live := Vector.ofFn g.laneLive
  match g.reference with
  | none => { live, skew := none, deskew := none, errors := Vector.replicate 4 0 }
  | some ref =>
    let offsets := (g.rawOffsets ref).map clampOffset
    { live, skew := some (largest offsets - smallest offsets),
      deskew := some (Vector.ofFn fun i => match g.rawOffset ref i with
        | some n => largest offsets - clampOffset n
        | none => 0),
      errors := Vector.replicate 4 0 }

/-- Some offset is clamped (R131). -/
def Grant.skewClamped (g : Grant) : Bool :=
  match g.reference with
  | none => false
  | some ref => (g.rawOffsets ref).any offsetClamped

/-- The grant as it enters SOAK (R132): dead lanes' checkers are stopped, live ones' counts cleared. -/
def Grant.enterSoak (g : Grant) (units : Nat) : Grant :=
  { g with phase := .soak, phaseCount := 0, peerStop := 0, units := 0, soakLength := Config.soakUnitCycles * units,
           checkers := Vector.ofFn fun i =>
             if g.laneLive i then { g.checkers[i] with errors := 0 } else { g.checkers[i] with state := .stopped } }

/-- TRAINING_END (R131, R132): 8 cycle starts after the window opened. -/
def execTrainingEnd (p : PortId) (s : State) : Host.Outcome State Fault Refusal :=
  match s.grantOf p with
  | some g =>
    if g.phase = .training ∧ g.phaseCount ≥ Config.trainingCycles then
      let s := s.setFlagIf g.skewClamped p .skewClamped
      let s := (s.updCtx p fun c => { c with results := some g.results }).markDirty p
      .next (s.updGrant p fun g => g.enterSoak (s.entry p).soakUnits)
    else .next s
  | none => .next s

/-- SOAK_UNIT_END (R133). -/
def execSoakUnitEnd (p : PortId) (s : State) : Host.Outcome State Fault Refusal :=
  match s.grantOf p with
  | some g =>
    if g.phase = .soak ∧ g.phaseCount ≥ Config.soakUnitCycles * (g.units + 1) then
      .next ((s.updGrant p fun g => { g with units := satInc 255 g.units }).copyCounts p g)
    else .next s
  | none => .next s

/-- SOAK_END (R133, R135). -/
def execSoakEnd (p : PortId) (s : State) : Host.Outcome State Fault Refusal :=
  match s.grantOf p with
  | some g => if g.phase = .soak ∧ g.phaseCount ≥ g.soakLength then .next (s.endSoak p g) else .next s
  | none => .next s

/-- PEER_START_EXPIRY (R129, R130). -/
def execPeerStartExpiry (p : PortId) (s : State) : Host.Outcome State Fault Refusal :=
  match s.grantOf p, (s.port p).timers.peerStart with
  | some g, some n => if g.phase = .start ∧ n ≥ Config.peerStartCycles then .next (s.stall p) else .next s
  | _, _ => .next s

end Sys2Proof.Machine
end

