-- ==== Sys2Proof/Machine/Identity.lean ====
section
/-! DEFINITION. The Identity Reader's events (R63 to R69). -/

namespace Sys2Proof.Machine

/-- The flag of a read outcome (R64). -/
def State.flagOutcome (s : State) (p : PortId) (c : CableIdentity) : State :=
  match c with
  | .missing => s.setFlag p .identMissing
  | .corrupt => s.setFlag p .identCorrupt
  | _ => s

/-- A read outcome at the port controller (R9, R64): the stored identity is replaced whole and the port enters AWAIT_FAR. -/
def State.identityOutcome (s : State) (p : PortId) (c : CableIdentity) : State :=
  if s.portState p = .seated then
    (((s.updCtx p fun x => { x with cable := c }).markDirty p).flagOutcome p c).goTo p (.plain .awaitFar)
  else s

def State.setReader (s : State) (r : IdentityReader) : State := { s with reader := r }

/-! ### The identity bus (R67 to R69) -/

/-- The address of an identity memory (R67). -/
def memoryAddress : BitVec 7 := 0x2A

/-- The first addressing byte (R67). -/
def addressingStart : List BusSign := [.start, .address memoryAddress false]

/-- What the reader drives once one more addressing byte is acknowledged, `addressed` before it (R67): the offset, the repeated start and
the address for read; after the third the memory drives. -/
def afterAddressing (addressed : Nat) : List BusSign :=
  match addressed with
  | 0 => [.offset 0]
  | 1 => [.start, .address memoryAddress true]
  | _ => []

/-- What the reader drives at the end of data byte `index` (R67): it acknowledges bytes 0 to 22, and not byte 23, after which it stops. -/
def afterData (index : Nat) : List BusSign := if index < 23 then [.acknowledge] else [.noAcknowledge, .stop]

/-- What the reader drives at the end of the byte in which a read is aborted (R69): a stop, a data byte left unacknowledged. -/
def afterAborted (v : ReadInService) : List BusSign := if v.addressed < 3 then [.stop] else [.noAcknowledge, .stop]

/-- The reader drives the bus (log 28). -/
def State.driveBus (s : State) (signs : List BusSign) : State := { s with identityBus := s.identityBus ++ signs }

/-- The reader enters GUARD, and the outcome is given (R67, R68); an aborted read gives none (R69). -/
def State.endRead (s : State) (v : ReadInService) (c : CableIdentity) : State :=
  let s := s.setReader s.reader.toGuard
  if v.aborting then s else s.identityOutcome v.port c

/-- IDENT_TAKE (R66). -/
def execIdentTake (s : State) : Host.Outcome State Fault Refusal :=
  match s.reader.phase, s.reader.queue with
  | .idle, p :: rest =>
    .next (s.setReader { phase := .settle, queue := rest,
                         service := some { port := p, attempt := 1, addressed := 0, data := [], aborting := false } }).markHeader
  | _, _ => .next s

/-- IDENT_SETTLE_END (R67). -/
def execIdentSettleEnd (s : State) : Host.Outcome State Fault Refusal :=
  match s.reader.phase with
  | .settle => .next ((s.setReader { s.reader with phase := .transfer }).driveBus addressingStart)
  | _ => .next s

/-- IDENT_BYTE_COMPLETE (R67, R69): an aborted read ends; else one more addressing byte is acknowledged or one more data byte
taken. After data byte 23 no byte is in transfer. -/
def execIdentByteComplete (b : Byte) (s : State) : Host.Outcome State Fault Refusal :=
  match s.reader.phase, s.reader.service with
  | .transfer, some v =>
    if v.data.length ≥ 24 then .next s
    else if v.aborting then .next ((s.setReader s.reader.toGuard).driveBus (afterAborted v))
    else if v.addressed < 3 then
      .next ((s.setReader { s.reader with service := some { v with addressed := v.addressed + 1 } }).driveBus
        (afterAddressing v.addressed))
    else
      .next ((s.setReader { s.reader with service := some { v with data := v.data ++ [b] } }).driveBus (afterData v.data.length))
  | _, _ => .next s

/-- IDENT_ADDRESS_NACK (R68): the reader sends a stop. -/
def execIdentAddressNack (s : State) : Host.Outcome State Fault Refusal :=
  match s.reader.phase, s.reader.service with
  | .transfer, some v =>
    if v.addressed ≥ 3 then .next s
    else if v.aborting ∨ v.attempt ≥ 3 then .next ((s.driveBus [.stop]).endRead v .missing)
    else .next ((s.setReader { s.reader with phase := .retryGap }).driveBus [.stop])
  | _, _ => .next s

/-- IDENT_RETRY_GAP_END (R68). -/
def execIdentRetryGapEnd (s : State) : Host.Outcome State Fault Refusal :=
  match s.reader.phase, s.reader.service with
  | .retryGap, some v =>
    .next ((s.setReader { s.reader with phase := .transfer,
                                        service := some { v with attempt := v.attempt + 1, addressed := 0, data := [] } }).driveBus
      addressingStart)
  | _, _ => .next s

/-- IDENT_READ_DONE (R67): once the 24 bytes are held the block is judged (R63). -/
def execIdentReadDone (s : State) : Host.Outcome State Fault Refusal :=
  match s.reader.phase, s.reader.service with
  | .transfer, some v => if v.data.length = 24 then .next (s.endRead v (judgeBlock v.data)) else .next s
  | _, _ => .next s

/-- IDENT_GUARD_END (R66). -/
def execIdentGuardEnd (s : State) : Host.Outcome State Fault Refusal :=
  match s.reader.phase with
  | .guardTime => .next (s.setReader { s.reader with phase := .idle })
  | _ => .next s

/-- The code the identity select lines carry (R66): the port in service, or the idle code 31. -/
def IdentityReader.selectLines (r : IdentityReader) : BitVec 5 :=
  match r.service with
  | some v => BitVec.ofNat 5 v.port.val
  | none => 31

end Sys2Proof.Machine
end

