-- ==== Sys2Proof/Machine/Lane.lean ====
section
/-! DEFINITION. The service lane's events: cycles and frames sent, lock, fields and cycles received, messages, arrival marks
(R4, R61, R70 to R83, R87 to R99, R104, R109 to R112, R125). -/

namespace Sys2Proof.Machine

/-! ### Sending (R72, R73, R87) -/

/-- The stage, READY, TRAIN and RELAYED fields of a leg in RELAYING (R104): copied from the partner's effective word, or its
own. -/
def State.relayFields (s : State) (p : PortId) : Nat × Bool × Bool × Bool :=
  match s.partner p with
  | some q =>
    match (s.port q).framer.effective with
    | some w =>
      if s.portState q = .relaying then (wordStage w, wordReady w, wordTrain w, true) else (11, false, false, false)
    | none => (11, false, false, false)
  | none => (11, false, false, false)

/-- The fields the controller supplies at a cycle start (R4, R104, R128). -/
def State.wordFields (s : State) (p : PortId) : Nat × Bool × Bool × Bool :=
  if s.portState p = .relaying then s.relayFields p
  else ((s.portState p).code, (s.port p).ready, (s.ctx p).heldExerciser.isSome, false)

/-- The status word of the cycle that starts: FBE is 0 when the FBE request is set (R72, R82). -/
def State.cycleWord (s : State) (p : PortId) : BitVec 8 :=
  let f := s.wordFields p
  statusWord f.1 f.2.1 (!(s.port p).framer.fbeRequest) f.2.2.1 f.2.2.2

/-- A cycle timer that runs counts one cycle start, up to its length (R5). -/
def countCycle (length : Nat) (t : Option Nat) : Option Nat := t.map (satInc length)

/-- The cycle timers of R5. -/
def Timers.countCycles (t : Timers) : Timers :=
  { t with lockSearch := countCycle Config.lockSearchCycles t.lockSearch,
           greet := countCycle Config.greetCycles t.greet,
           peerDelay := countCycle Config.peerDelayCycles t.peerDelay,
           peerStart := countCycle Config.peerStartCycles t.peerStart,
           lapse := countCycle Config.lapseCycles t.lapse,
           blockWindow := countCycle Config.blockWindowCycles t.blockWindow }

/-- What a cycle start counts at the port (R5, R94, R108). The byte timer rises in OFFER and keeps its count in GAP and IDLE (log 39). The
scan wait rises while a SCAN job is present and stays where it is when the
job has ended (log 43). -/
def Port.countCycle (x : Port) : Port :=
  { x with timers := x.timers.countCycles,
           channel := { x.channel with byteTimer :=
             if x.channel.sender = .offer then satInc Config.byteTimerCycles x.channel.byteTimer else x.channel.byteTimer },
           meter := { x.meter with scanWait :=
             if x.meter.scanJob.isSome then satInc Config.scanWaitCycles x.meter.scanWait else x.meter.scanWait } }

/-- The reply wait of a PEER check in flight on the port (R161). -/
def Scheduler.countCycle (c : Scheduler) (p : PortId) : Scheduler :=
  { c with inFlight := c.inFlight.map fun f =>
      if f.port = p ∧ f.kind = .peer then { f with replyWait := satInc Config.replyWaitCycles f.replyWait } else f }

/-- The framer takes the cycle's word and clears the FBE request (R72, R82). -/
def Framer.cycleStart (f : Framer) (w : BitVec 8) : Framer :=
  { f with tx := f.tx.map fun t => t.startCycle w, fbeRequest := false }

/-- TX_CYCLE_START (R72, R73): the status word, the cycle timers and counts, the pattern's restart (R125). The cycle start with which
the transmitter turns on counts too (log 42). -/
def execTxCycleStart (p : PortId) (s : State) : Host.Outcome State Fault Refusal :=
  if (s.port p).framer.tx.isNone then .next s
  else
    let w := s.cycleWord p
    let s := s.updPort p fun x => { x.countCycle with framer := x.framer.cycleStart w }
    let s := s.updGrant p fun g => { g with phaseCount := g.phaseCount + 1, patternOn := true }
    .next { s with scan := s.scan.countCycle p }

/-- One comparison of the received amplitude (R61). -/
def OnState.compared (o : OnState) (above : Bool) : OnState :=
  if above then { o with below := 0, above := satInc 8 o.above } else { o with below := satInc 8 o.below, above := 0 }

/-- A frame starts with the fields the channel supplies (R72, R87). -/
def Port.frameStart (x : Port) (t : Transmit) (above : Bool) : Port :=
  let c := x.channel.frameStart
  let f := c.fields
  { x with channel := c.supplied, onState := x.onState.compared above,
           framer := { x.framer with tx := some (t.startFrame f.1 f.2.1 f.2.2 c.k c.j) } }

/-- TX_FRAME_START (R61, R72, R87). -/
def execTxFrameStart (p : PortId) (above : Bool) (s : State) : Host.Outcome State Fault Refusal :=
  match (s.port p).framer.tx with
  | some t => .next (s.updPort p fun x => x.frameStart t above)
  | none => .next s

/-- MESSAGE_SEND_START (R90): an IDLE sender with lock takes the head of the queue. -/
def execMessageSendStart (p : PortId) (s : State) : Host.Outcome State Fault Refusal :=
  let x := s.port p
  if x.framer.lock = .locked ∧ x.channel.sender = .idle then .next (s.takeHead p) else .next s

/-- BYTE_TIMER_EXPIRY (R94). -/
def execByteTimerExpiry (p : PortId) (s : State) : Host.Outcome State Fault Refusal :=
  let c := (s.port p).channel
  if c.sender = .offer ∧ c.onOffer ∧ c.byteTimer ≥ Config.byteTimerCycles then .next (s.attemptFailed p) else .next s

/-! ### Lock (R75 to R78) -/

/-- FRAME_LOCK (R75). -/
def execFrameLock (p : PortId) (bits : BitVec 52) (s : State) : Host.Outcome State Fault Refusal :=
  let f := (s.port p).framer
  if f.lock = .search ∧ threeSyncs bits then .next (s.updPort p fun x => { x with framer := x.framer.frameLocked bits })
  else .next s

/-- The framer after an errored sync that does not lose lock, or a good one (R76). -/
def Framer.syncChecked (f : Framer) (good : Bool) : Framer :=
  { f with erroredRun := if good then 0 else f.erroredRun + 1 }

/-- A sync check in FRAME (R76, R77, R78): a 0x47 takes cycle lock; a loss is not reported. -/
def State.syncInFrame (s : State) (p : PortId) (bits : Byte) : State :=
  let f := (s.port p).framer
  if bits = 0x47 then (s.updPort p fun x => { x with framer := x.framer.cycleLocked }).lockGained p
  else if !isSync bits && f.erroredRun ≥ 3 then s.updPort p fun x => { x with framer := x.framer.lockDropped }
  else s.updPort p fun x => { x with framer := x.framer.syncChecked (isSync bits) }

/-- The framer at a checked sync in LOCKED (R76, R80): the index advances; a good frame 0 will give an arrival mark. -/
def Framer.syncLocked (f : Framer) (i : Fin 8) (good : Bool) : Framer :=
  { f.syncChecked good with rxIndex := some i, markDue := good && i == 0 }

/-- A sync check in LOCKED (R76, R78). -/
def State.syncInLocked (s : State) (p : PortId) (i : Fin 8) (sync : SyncBits) : State :=
  let f := (s.port p).framer
  let good := sync.bits == syncWord i
  if !good && f.erroredRun ≥ 3 then (s.updPort p fun x => { x with framer := x.framer.lockDropped }).lockLost p sync.entryFirst
  else s.updPort p fun x => { x with framer := x.framer.syncLocked i good }

/-- RX_SYNC_CHECK (R76). -/
def execRxSyncCheck (p : PortId) (sync : SyncBits) (s : State) : Host.Outcome State Fault Refusal :=
  let f := (s.port p).framer
  match f.lock, f.rxIndex with
  | .frame, _ => .next (s.syncInFrame p sync.bits)
  | .locked, some i => .next (s.syncInLocked p (i + 1) sync)
  | _, _ => .next s

/-! ### Received fields and cycles (R79 to R83, R92, R96) -/

/-- The Message Channel takes the fields of a received frame (R79), its halves in the order the sender names (log 13). -/
def State.channelTakes (s : State) (p : PortId) (f : FrameFields) (senderFirst : Bool) : State :=
  if senderFirst then
    let s := s.senderTakes p f.k f.j
    if (s.port p).framer.lock = .locked then s.receiverTakes p f else s
  else
    let s := s.receiverTakes p f
    if (s.port p).framer.lock = .locked then s.senderTakes p f.k f.j else s

/-- RX_FRAME_FIELDS (R74, R79, R81): the bits are descrambled; in LOCKED the frame is taken and its fields given. In FRAME only
the history moves on (R75, R79). -/
def execRxFrameFields (p : PortId) (bits : BitVec 14) (senderFirst : Bool) (s : State) :
    Host.Outcome State Fault Refusal :=
  let f := (s.port p).framer
  match f.rxHistory with
  | none => .next s
  | some h =>
    let d := descramble h (bitsOf bits)
    match f.lock, f.rxIndex with
    | .locked, some i =>
      .next ((s.updPort p fun x => { x with framer := x.framer.takePlain i d.1 d.2 }).channelTakes p (fieldsOf d.1) senderFirst)
    | .frame, _ => .next (s.updPort p fun x => { x with framer := { x.framer with rxHistory := some d.2 } })
    | _, _ => .next s

/-- The comparison of step 1 of R81: none at the first cycle end after cycle lock, else whether it matches and the word that was
pending. -/
def Framer.comparison (f : Framer) : Option (Bool × BitVec 8) :=
  match f.rxHeldCrc, f.pendingWord with
  | some h, some w => some (f.rxCrcBits == h, w)
  | _, _ => none

/-- RX_CYCLE_END (R81): the comparison, the new pending word and held CRC, then what the result leads to (R82, R83). -/
def execRxCycleEnd (p : PortId) (s : State) : Host.Outcome State Fault Refusal :=
  let f := (s.port p).framer
  if f.lock = .locked ∧ f.wholeCycle then
    let t := s.updPort p fun x => { x with framer := x.framer.endCycle }
    match f.comparison with
    | none => .next t
    | some (true, w) =>
      .next ((t.updPort p fun x => { x with framer := { x.framer with effective := some w } }).wordDelivered p w)
    | some (false, _) => .next (t.blockError p)
  else .next s

/-! ### Arrival marks (R109 to R112) -/

/-- The second arrival of a pair (R110, R111). -/
def State.pairTaken (s : State) (p : PortId) (lp lm : Nat) : State :=
  let d := pairSpread lp lm
  let n := (s.port p).meter.pairNumber.getD 1
  let s := s.updMeter p fun m => { m with lm := some lm, spread := some d }
  if pairStable d then (s.measurementStable p (pairL2 lp d)).completeJobs p
  else if n < 3 then s.updMeter p fun m => m.beginPair (n + 1)
  else s.measurementUnstable p

/-- The meter takes an arrival (R109). -/
def State.meterTakes (s : State) (p : PortId) (ticks : Nat) : State :=
  let m := (s.port p).meter
  match m.phase, m.lp with
  | .plus, _ => s.updMeter p fun m => { m with lp := some ticks, phase := .minus, biasMinus := true }
  | .minus, some lp => s.pairTaken p lp ticks
  | _, _ => s

/-- ARRIVAL_MARK (R80, R109): one for each frame 0 with a good sync in LOCKED. -/
def execArrivalMark (p : PortId) (ticks : Fin 2816) (s : State) : Host.Outcome State Fault Refusal :=
  if (s.port p).framer.markDue then
    .next ((s.updPort p fun x => { x with framer := { x.framer with markDue := false } }).meterTakes p ticks.val)
  else .next s

end Sys2Proof.Machine
end

