-- ==== Sys2Proof/Machine/Plan.lean ====
section
/-! DEFINITION. Plan loads, swaps, patches and the notices they send (R38 to R42). -/

namespace Sys2Proof.Machine

/-- A type change (R42). -/
def typeChanged (old new : Entry) : Bool :=
  (old.effective == .relay) != (new.effective == .relay) ||
    (old.effective == .relay && new.effective == .relay && old.peerPort != new.peerPort)

/-- The notice for a change of entry (R42 to R44). -/
def noticeOf (old new : Entry) : Notice :=
  { retryPolicy := old.retryPolicy != new.retryPolicy, retryClass := old.retryClass != new.retryClass,
    typeChange := typeChanged old new }

/-- A port whose entry differs is sent a notice (R40, R42, log 20). -/
def Port.notify (x : Port) (old new : Entry) : Port :=
  if old = new then x else { x with notices := x.notices ++ [noticeOf old new] }

/-- The entries in effect are replaced and the notices sent (R40, R41). -/
def State.installEntries (s : State) (es : Vector Entry 24) : State :=
  { s with plan := { s.plan with entries := es },
           ports := Vector.ofFn fun p => s.ports[p].notify s.plan.entries[p] es[p] }

/-- Chassis id, epoch and plan-in-effect of a swap (R40); a change of any marks the header (R34, R180). -/
def State.setPlanHeader (s : State) (chassis : BitVec 16) (epoch : Byte) : State :=
  let t := { s with plan := { s.plan with chassis := chassis, epoch := epoch, inEffect := true, load := none } }
  if s.plan.chassis = chassis ∧ s.plan.epoch = epoch ∧ s.plan.inEffect then t else t.markHeader

/-- The shadow as a table (R39); an entry that was not read is the default entry (no full shadow lacks one). -/
def shadowTable (shadow : List Entry) : Vector Entry 24 := Vector.ofFn fun p => shadow.getD p.val defaultEntry

/-- The swap (R40), and the departure from DORMANT at the first one (R7). -/
def State.swapPlan (s : State) (chassis : BitVec 16) (epoch : Byte) (shadow : List Entry) : State :=
  let first := !s.plan.inEffect
  let s := (s.installEntries (pairEntries (shadowTable shadow))).setPlanHeader chassis epoch
  if first && s.run then s.leaveDormant else s

/-- The order of kind `k` that its block has taken and that takes time (R172). -/
def State.workingOrder (s : State) (k : OrderKind) : Option Order :=
  match s.walker.order? with
  | some o => if o.kind = k ∧ o.stage = .working then some o else none
  | none => none

/-- LOAD_PLAN (R38): the address is checked and the reading of the header begins. -/
def execLoadPlan (s : State) : Host.Outcome State Fault Refusal :=
  match s.handedOrder .loadPlan with
  | none => .next s
  | some o =>
    if (recordAddress o.record).toNat % 16 ≠ 0 then .next (s.refuseOrder o .badArg)
    else .next { s.setOrder { o with stage := .working } with plan := { s.plan with load := some .header } }

/-- PLAN_HEADER_READ_DONE (R38). -/
def execPlanHeaderReadDone (header : BitVec 128) (s : State) : Host.Outcome State Fault Refusal :=
  match s.workingOrder .loadPlan, s.plan.load with
  | some o, some .header =>
    match planHeaderOf header with
    | some (chassis, epoch) => .next { s with plan := { s.plan with load := some (.entries chassis epoch [] 0) } }
    | none => .next ({ s with plan := { s.plan with load := none } }.refuseOrder o .badArg)
  | _, _ => .next s

/-- The load's order completes with its report (R40). -/
def State.completeLoad (s : State) (o : Order) (clamps : Nat) : State :=
  s.completeOrder o .ok 0 (some (BitVec.ofNat 8 (brokenCount s.plan.entries), BitVec.ofNat 8 clamps))

/-- PLAN_ENTRY_READ_DONE (R39, R40): the 24th entry is followed by the pairing check, the swap and the completion. -/
def execPlanEntryReadDone (entry : BitVec 128) (s : State) : Host.Outcome State Fault Refusal :=
  match s.workingOrder .loadPlan, s.plan.load with
  | some o, some (.entries chassis epoch shadow clamps) =>
    let shadow := shadow ++ [entryOf entry]
    let clamps := clamps + entryClamps entry
    if shadow.length < 24 then
      .next { s with plan := { s.plan with load := some (.entries chassis epoch shadow clamps) } }
    else .next ((s.swapPlan chassis epoch shadow).completeLoad o clamps)
  | _, _ => .next s

/-- Steps 1 to 4 of a patch (R41). -/
def State.patchPlan (s : State) (mask : PortMask) (template : BitVec 128) : State :=
  s.installEntries (pairEntries (Vector.ofFn fun p => if maskHas mask p then entryOf template else s.plan.entries[p]))

/-- What a PLAN_PATCH does to the table (R41): nothing with no plan in effect or with mask 0. -/
def State.patchEffect (s : State) (o : Order) : State :=
  let mask := toPortMask (recordMask o.record)
  if s.plan.inEffect ∧ mask ≠ 0 then s.patchPlan mask (recordTemplate o.record) else s

/-- A PLAN_PATCH with mask 0 completes OK (R41); what its report fields hold is not stated: free values (log 16). -/
def State.completeEmptyPatch (s : State) (o : Order) : State :=
  { s with free := s.free + 2 }.completeOrder o .ok 0
    (some (Config.freeByte s.free, Config.freeByte (s.free + 1)))

/-- PLAN_PATCH (R41). With no plan in effect and mask 0, where R41 gives both BAD_STATE and OK, it is BAD_STATE (log 40). -/
def execPlanPatch (s : State) : Host.Outcome State Fault Refusal :=
  match s.handedOrder .planPatch with
  | none => .next s
  | some o =>
    let mask := toPortMask (recordMask o.record)
    if !s.plan.inEffect then .next (s.refuseOrder o .badState)
    else if mask = 0 then .next (s.completeEmptyPatch o)
    else
      let s := s.patchEffect o
      .next (s.completeOrder o .ok mask
        (some (BitVec.ofNat 8 (brokenCount s.plan.entries), BitVec.ofNat 8 (entryClamps (recordTemplate o.record)))))

end Sys2Proof.Machine
end

