-- ==== Sys2Proof/Machine/Scan.lean ====
section
/-! DEFINITION. Scans: taking entries, handing checks to ports, starts, ticks and the reply wait (R155, R156, R159 to R164). -/

namespace Sys2Proof.Machine

/-! ### The checks -/

/-- LINE (R160). -/
def State.checkLine (s : State) (p : PortId) : State :=
  let st := s.portState p
  if st.transmits then s.endCheck (s.onStateResult p)
  else if lineOffState st then s
  else s.endCheck .notApplicable

/-- PEER (R161). -/
def State.checkPeer (s : State) (p : PortId) (number : Nat) : State :=
  if !peerCheckState (s.portState p) || s.isRelay p then s.endCheck .notApplicable
  else if (s.port p).framer.lock = .locked then
    s.queueMessage p (ownHello true { noPurposes with scan := [number] })
  else s.endCheck .abandoned

/-- DELAY (R162). -/
def State.checkDelay (s : State) (p : PortId) : State :=
  if delayCheckState (s.portState p) then s.startJob p .scan else s.endCheck .notApplicable

/-- COUNTS (R163): in HANDED the budget is compared, and a fault is taken after the result is recorded. -/
def State.checkCounts (s : State) (p : PortId) : State :=
  let st := s.portState p
  if !st.transmits then s.endCheck .notApplicable
  else
    let s := s.markDirty p
    if st = .handed then
      let s := (s.budgetCause p).endCheck .copied
      if s.budgetSpent p then s.fault p .linkErrors else s
    else s.endCheck .copied

/-- EXPECT (R164). -/
def State.checkExpect (s : State) (p : PortId) : State :=
  if s.portState p = .vacant then
    (s.setFlagIf (s.missingCause p) p .missing).endCheck (if s.missingCause p then .absentPlanned else .absentUnplanned)
  else s.endCheck .notApplicable

/-- The port takes a check in the state it is in (R156, R159 to R164). -/
def State.portTakesCheck (s : State) (p : PortId) (k : ScanKind) (number : Nat) : State :=
  match k with
  | .line => s.checkLine p
  | .peer => s.checkPeer p number
  | .delay => s.checkDelay p
  | .counts => s.checkCounts p
  | .expect => s.checkExpect p

/-- The check that taking entry `x.pointer` puts in flight (R156, R159). -/
def Scheduler.newCheck (x : Scheduler) (p : PortId) (k : ScanKind) : InFlight :=
  { index := x.pointer, port := p, kind := k, pass := Nat.min 65535 (x.passes + 1), number := x.checkNo + 1, replyWait := 0 }

/-- The Scheduler hands a check to a port (R156). -/
def State.handCheck (s : State) (p : PortId) (k : ScanKind) : State :=
  let c := s.scan.newCheck p k
  { s with scan := { s.scan with inFlight := some c, checkNo := c.number } }.portTakesCheck p k c.number

/-! ### Ticks and starts -/

/-- In DRAINING each entry taken lowers the post-stop count (R156). -/
def Scheduler.countTaken (x : Scheduler) : Scheduler :=
  if x.state = .draining then { x with postStop := x.postStop - 1 } else x

/-- The entry at the pointer is taken (R156). -/
def State.takeEntry (s : State) : State :=
  match s.scan.list[s.scan.pointer]? with
  | none => s
  | some .skip => { s with scan := s.scan.countTaken }.advancePointer.scanDrainTest
  | some (.check p k) => { s with scan := s.scan.countTaken }.handCheck p k

/-- What a tick does (R156). -/
def State.scanTick (s : State) : State :=
  if s.scan.state = .draining ∧ s.scan.postStop = 0 then s
  else if s.scan.inFlight.isSome then s.setScan { s.scan with overruns := satInc 255 s.scan.overruns }
  else s.takeEntry

/-- A start trigger in IDLE with a list (R155); in every other situation it is disregarded. -/
def State.startTrigger (s : State) : State :=
  if s.scan.state = .idle ∧ s.scan.list ≠ [] then
    (s.setScan { s.scan with passes := 0, overruns := 0, postStop := 0, state := .running, pacerOn := true,
                             elapsed := 0 }).scanTick
  else s

/-- A match event from the Watch (R155, R57). -/
def State.matchEvent (s : State) : State := if s.scan.start = .watchMatch then s.startTrigger else s

/-- PACER_TICK (R156): once a period has passed since the start or the tick before. -/
def execPacerTick (s : State) : Host.Outcome State Fault Refusal :=
  if s.scan.state = .idle ∨ !s.scan.pacerOn ∨ s.scan.elapsed < s.scan.period then .next s
  else .next { s with scan := { s.scan with elapsed := s.scan.elapsed - s.scan.period } }.scanTick

/-- PEER_REPLY_WAIT_EXPIRY (R161). -/
def execPeerReplyWaitExpiry (p : PortId) (s : State) : Host.Outcome State Fault Refusal :=
  match s.scan.inFlight with
  | some c =>
    if c.port = p ∧ c.kind = .peer ∧ c.replyWait ≥ Config.replyWaitCycles then .next (s.endUnanswered p .peer)
    else .next s
  | none => .next s

end Sys2Proof.Machine
end

