-- ==== Sys2Proof/Machine/Presence.lean ====
section
/-! DEFINITION. The presence sample: debounce, off-state evaluations, port events and the Presence Watch (R51 to R60, R10,
R28, R146 to R148), and the low-signal cause (R61). -/

namespace Sys2Proof.Machine

/-! ### Debounce (R52) -/

/-- The ports whose debounced presence changes at a sample. -/
def debounceChange (raw prev debounced : PortMask) : PortMask := (raw ^^^ debounced) &&& (prev ^^^ debounced)

/-! ### Off-state evaluation (R58) -/

/-- The result of a measuring window: the first row of the table that applies. -/
def windowResult (w : LineWindow) : OffResult :=
  if w.transitions ≥ 8 then .terminated
  else match w.level with
    | .ground => .short
    | .supply => .short
    | .terminationWindow => .terminated
    | .openBias => .openLine
    | .other => .openLine

/-- "Activity" is noted (R58). -/
def windowActivity (w : LineWindow) : Bool := decide (w.transitions ≥ 8)

/-- The scan result of an off-state evaluation (R160). -/
def OffResult.scanResult : OffResult → ScanResult
  | .none => .none
  | .terminated => .terminated
  | .openLine => .openLine
  | .short => .short

/-- Whether a LINE check in flight on the port is answered at this sample (R60). -/
def State.lineRequested (s : State) (p : PortId) (ripe : Bool) : Bool :=
  ripe && s.checking p .line && lineOffState (s.portState p)

/-- An evaluation of port `p` is asked for (R59, R60): its own in AWAIT_FAR, or that of a LINE check. -/
def State.evaluationAsked (s : State) (p : PortId) (ripe : Bool) : Bool :=
  s.portState p == .awaitFar || s.lineRequested p ripe

/-- The evaluation of port `p` at a sample (R59, R60). -/
def State.evaluation (s : State) (p : PortId) (window : Option LineWindow) (ripe : Bool) : Option LineWindow :=
  if s.evaluationAsked p ripe then window else none

/-- Whether the block injects the bias on the receive pair of port `p` at a moment (R58): over the windows of evaluations that have been asked
for, while the transmitter is off. `inWindow` is whether the moment lies in a measuring window of the port, the 100 µs that end at the
next sample, begun no earlier than the entry to AWAIT_FAR or the request; `ripe` is as the sample will have it. -/
def State.biasDriven (s : State) (p : PortId) (inWindow ripe : Bool) : Bool :=
  (s.port p).framer.tx.isNone && inWindow && s.evaluationAsked p ripe

/-- Whether port `p` presents its line termination on its transmit pair (R58): whenever its transmitter is off, in every port state and during
reset. -/
def State.terminationPresented (s : State) (p : PortId) : Bool := (s.port p).framer.tx.isNone

/-- What a port in AWAIT_FAR does on a result (R10, R59). -/
def State.awaitFarResult (s : State) (p : PortId) (r : OffResult) : State :=
  match r with
  | .terminated => s.goTo p .listen
  | .openLine => (s.updPort p fun x => { x with farOpenCause := true }).setFlag p .farOpen
  | .short => (s.updCtx p fun c => { c with lastFault := .short }).goTo p (.plain .latched)
  | .none => s

/-- An evaluation's result (R58 to R60): recorded, given to the Scan Scheduler where it asked, and to a port still in
AWAIT_FAR. A window given for a port that entered AWAIT_FAR less than 100 µs before goes to both, none to neither (log 49). -/
def State.lineResult (s : State) (p : PortId) (w : LineWindow) (ripe : Bool) : State :=
  let s := s.updPort p fun x => { x with offResult := (windowResult w), offActivity := windowActivity w }
  let s := if ripe then s.endCheckOn p .line (windowResult w).scanResult else s
  if s.portState p = .awaitFar then s.awaitFarResult p (windowResult w) else s

/-- A port takes its change of debounced presence (R52). -/
def State.presenceChange (s : State) (p : PortId) (changed : PortMask) : State :=
  if maskHas changed p then (if maskHas s.debounced p then s.presenceGained p else s.cablePull p) else s

def State.lineResultIf (s : State) (p : PortId) (w : Option LineWindow) (ripe : Bool) : State :=
  match w with
  | some w => s.lineResult p w ripe
  | none => s

/-- What the sample does at one port (R52, R59), with the two in the order the sender names (log 11). -/
def State.samplePort (s : State) (p : PortId) (changed : PortMask) (window : Option LineWindow) (resultFirst ripe : Bool) :
    State :=
  let w := s.evaluation p window ripe
  if resultFirst then (s.lineResultIf p w ripe).presenceChange p changed
  else (s.presenceChange p changed).lineResultIf p w ripe

/-! ### The Presence Watch (R54 to R57) -/

/-- The match condition (R57). -/
def matchCondition (debounced ignore compare : PortMask) : Bool := (debounced ^^^ compare) &&& ~~~ignore == 0

/-- A firing (R56, R57): the snapshot, the header mark, the SUMMARY bit. -/
def State.watchFires (s : State) (b : SummaryBit) : State :=
  ({ s with watch := { s.watch with snapshot := s.debounced } }.markHeader).setSummary b

/-- The Watch takes a sample at which some port changed (R56, R57). -/
def State.watchSample (s : State) (changed : PortMask) : State :=
  match s.watch.mode with
  | .off => s
  | .event => if changed &&& ~~~s.watch.ignore = 0 then s else (s.watchFires .presence).presenceEvent
  | .matching =>
    let now := matchCondition s.debounced s.watch.ignore s.watch.compare
    let fires := !s.watch.held && now
    let s := { s with watch := { s.watch with held := now } }
    if fires then (s.watchFires .watchMatch).matchEvent else s

/-- PRESENCE_SAMPLE (R51): once a sample period has passed. Ports are taken in ascending order, the Watch after them
(log 11). -/
def execPresenceSample (raw : PortMask) (windows : Vector (Option LineWindow) 24) (resultFirst : PortMask)
    (requestRipe : Bool) (s : State) : Host.Outcome State Fault Refusal :=
  if s.sampleElapsed < s.samplePeriod then .next s
  else
    let changed := debounceChange raw s.raw s.debounced
    let s := { s with sampleElapsed := s.sampleElapsed - s.samplePeriod, raw := raw,
                      debounced := s.debounced ^^^ changed }
    let s := if changed = 0 then s else s.markHeader
    let s := forPorts allPorts
      (fun p s => s.samplePort p changed windows[p] (maskHas resultFirst p) requestRipe) s
    .next (if changed = 0 then s else s.watchSample changed)

/-! ### The low-signal cause (R61) -/

/-- LOW_SIGNAL_CAUSE_START (R61). -/
def execLowSignalCauseStart (p : PortId) (s : State) : Host.Outcome State Fault Refusal :=
  let x := s.port p
  if x.framer.tx.isSome ∧ x.onState.below ≥ 8 ∧ !x.onState.low then
    .next ((s.updPort p fun x => { x with onState := { x.onState with low := true } }).setFlag p .lowSignal)
  else .next s

/-- LOW_SIGNAL_CAUSE_END (R61). -/
def execLowSignalCauseEnd (p : PortId) (s : State) : Host.Outcome State Fault Refusal :=
  let x := s.port p
  if x.framer.tx.isSome ∧ x.onState.above ≥ 8 ∧ x.onState.low then
    .next (s.updPort p fun x => { x with onState := { x.onState with low := false } })
  else .next s

end Sys2Proof.Machine
end

