-- ==== Sys2Proof/Machine/Orders.lean ====
section
/-! DEFINITION. The order walk and the orders (R21, R29 to R31, R55, R144, R145, R149, R150, R153 to R158, R168 to R176). -/

namespace Sys2Proof.Machine

/-! ### The walk (R169 to R173) -/

/-- WALK_TIMER_EXPIRY (R169). -/
def execWalkTimerExpiry (s : State) : Host.Outcome State Fault Refusal :=
  match s.walker with
  | .idle n => if n ≥ Config.walkTimerMs then .next s.startFetch else .next s
  | _ => .next s

/-- A read whose value is discarded because RUN was written 0 (R170): STOPPED; where RUN is 1 again, a fresh re-read (log 9). -/
def State.readDiscarded (s : State) : State := if s.run then s.startFetch else s.setWalker .stopped

/-- The judgement of the anchor's link field (R170). -/
def State.judgeLink (s : State) (link : Address) : State :=
  if link = 0 then s.setWalker (.idle 0)
  else if link.toNat % 64 ≠ 0 then s.workFault .badLink
  else if link = s.anchor then s.workFault .staleLink
  else s.setWalker (.fetching (.record link) false)

/-- LINK_READ_DONE (R170). -/
def execLinkReadDone (link : Address) (s : State) : Host.Outcome State Fault Refusal :=
  match s.walker with
  | .fetching .link discard => .next (if discard then s.readDiscarded else s.judgeLink link)
  | _ => .next s

/-- The judgement of a record's state byte (R170): NEW is taken, its TAKEN write issued (R172 step 1). -/
def State.judgeRecord (s : State) (a : Address) (record : BitVec 512) : State :=
  if recordState record = 0 then (s.issue (a + 9) [1]).setWalker (.fetching (.take a record) false)
  else s.workFault .staleLink

/-- RECORD_READ_DONE (R170, R172). -/
def execRecordReadDone (record : BitVec 512) (s : State) : Host.Outcome State Fault Refusal :=
  match s.walker with
  | .fetching (.record a) discard => .next (if discard then s.readDiscarded else s.judgeRecord a record)
  | _ => .next s

/-- The order of a record at `a`, handed to its block. -/
def orderOf (k : OrderKind) (a : Address) (record : BitVec 512) : Order :=
  { kind := k, address := a, notify := recordNotify record, record,
    waiting := if k.isMaskOrder then toPortMask (recordMask record) else 0, applied := 0, stage := .handed }

/-- The walker with an order in progress, by RUN (R172, R178, log 9). -/
def orderWalker (run : Bool) (o : Order) : Walker := if run then .acting o else .stopping o

/-- The record becomes the anchor and its order is judged (R172 steps 2 and 3, R173). -/
def State.takeOrder (s : State) (a : Address) (record : BitVec 512) : State :=
  let s := { s with anchor := a }.markHeader
  match OrderKind.ofCode (recordKind record) with
  | none =>
    let o := orderOf .scanStop a record
    (s.setWalker (orderWalker s.run o)).completeOrder o .badKind 0 none
  | some k =>
    let o := orderOf k a record
    let s := s.setWalker (orderWalker s.run o)
    if k.readsMask && maskTooWide (recordMask record) then s.refuseOrder o .badArg else s

/-- TAKEN_WRITE_DONE (R172, R173). -/
def execTakenWriteDone (s : State) : Host.Outcome State Fault Refusal :=
  match s.walker with
  | .fetching (.take a record) _ => .next (s.takeOrder a record)
  | _ => .next s

/-! ### Mask orders (R174) -/

/-- One masked port takes a mask order: applied where its state admits it. The pair is the state and the applied mask. -/
def takeAt (admits : PortState → Bool) (act : PortId → State → State) (p : PortId) (acc : State × PortMask) :
    State × PortMask :=
  if admits (acc.1.portState p) then (act p acc.1, acc.2 ||| portBit p) else acc

/-- The ports of `ports` take a mask order in ascending order. -/
def takeAtPorts (admits : PortState → Bool) (act : PortId → State → State) (ports : PortMask) (s : State)
    (applied : PortMask) : State × PortMask :=
  allPorts.foldl (fun acc p => if maskHas ports p then takeAt admits act p acc else acc) (s, applied)

/-- The waiting ports that are not above the highest of `ports` (log 7). -/
def downTo (ports waiting : PortMask) : PortMask :=
  allPorts.foldl (fun m p =>
    if maskHas waiting p && allPorts.any (fun q => decide (p ≤ q) && maskHas (ports &&& waiting) q) then m ||| portBit p
    else m) 0

/-- A mask order is taken by the ports of `take`; when every masked port has taken it, it completes OK (R174). -/
def State.maskOrder (s : State) (o : Order) (take : PortMask) (admits : PortState → Bool) (act : PortId → State → State) :
    State :=
  let r := takeAtPorts admits act (take &&& o.waiting) s o.applied
  let o := { o with waiting := o.waiting &&& ~~~take, applied := r.2 }
  if o.waiting = 0 then r.1.completeOrder o .ok o.applied none else r.1.setOrder o

/-- HOLD at a port (R29). -/
def holdAt (p : PortId) (s : State) : State := s.goTo p (.plain .held)

/-- RELEASE at a port in HELD (R30). -/
def releaseAt (p : PortId) (s : State) : State :=
  if s.run && s.plan.inEffect then (if maskHas s.debounced p then s.goTo p .seated else s.goTo p (.plain .vacant))
  else s.goTo p (.plain .dormant)

/-- RESTART at a port (R31). -/
def restartAt (p : PortId) (s : State) : State := s.restartPort p

/-- DELATCH at a port in LATCHED (R144). -/
def delatchAt (p : PortId) (s : State) : State := s.goTo p (.plain .awaitFar)

/-- CLEAR_RETRIES at a port (R145). -/
def zeroRetriesAt (p : PortId) (s : State) : State := s.clearRetriesAt p

/-- HANDOVER at a port in QUALIFIED (R21). -/
def handoverAt (p : PortId) (s : State) : State :=
  ((s.updCtx p fun c => { c with armed := true, inhibited := false }).setReady p).handoverTest p

/-- WITHDRAW at a port in QUALIFIED or HANDED (R21). -/
def withdrawAt (p : PortId) (s : State) : State :=
  let st := s.portState p
  let s := (s.updCtx p fun c => { c with armed := false, inhibited := true }).setReady p
  if st = .handed then s.goTo p .qualified else s

/-- The flag selection of a CLEAR_FLAGS (R149). -/
def flagSelection (o : Order) : BitVec 15 := (recordSelection o.record).setWidth 15

/-- The selection names anything other than the fifteen flags (R149, R185). -/
def selectionTooWide (o : Order) : Bool := decide ((recordSelection o.record).toNat ≥ 2 ^ 15)

/-- The states that admit each mask order (R175's table). -/
def OrderKind.admits (k : OrderKind) (st : PortState) : Bool :=
  match k with
  | .restart => st != .dormant && st != .held
  | .hold => st != .held
  | .release => st == .held
  | .delatch => st == .latched
  | .clearRetries => true
  | .clearFlags => true
  | .handover => st == .qualified
  | .withdraw => linkState st
  | _ => false

/-- RESTART (R31, R174): ports join the Identity Queue in ascending order. -/
def execRestart (ports : PortMask) (s : State) : Host.Outcome State Fault Refusal :=
  match s.handedOrder .restart with
  | some o => .next (s.maskOrder o (downTo ports o.waiting) (OrderKind.admits .restart) restartAt)
  | none => .next s

/-- HOLD (R29, R174). -/
def execHold (ports : PortMask) (s : State) : Host.Outcome State Fault Refusal :=
  match s.handedOrder .hold with
  | some o => .next (s.maskOrder o ports (OrderKind.admits .hold) holdAt)
  | none => .next s

/-- RELEASE (R30, R174): ports join the Identity Queue in ascending order. -/
def execRelease (ports : PortMask) (s : State) : Host.Outcome State Fault Refusal :=
  match s.handedOrder .release with
  | some o => .next (s.maskOrder o (downTo ports o.waiting) (OrderKind.admits .release) releaseAt)
  | none => .next s

/-- DELATCH (R144, R174). -/
def execDelatch (ports : PortMask) (s : State) : Host.Outcome State Fault Refusal :=
  match s.handedOrder .delatch with
  | some o => .next (s.maskOrder o ports (OrderKind.admits .delatch) delatchAt)
  | none => .next s

/-- CLEAR_RETRIES (R145, R174). -/
def execClearRetries (ports : PortMask) (s : State) : Host.Outcome State Fault Refusal :=
  match s.handedOrder .clearRetries with
  | some o => .next (s.maskOrder o ports (OrderKind.admits .clearRetries) zeroRetriesAt)
  | none => .next s

/-- CLEAR_FLAGS (R149 to R151, R174). -/
def execClearFlags (ports : PortMask) (s : State) : Host.Outcome State Fault Refusal :=
  match s.handedOrder .clearFlags with
  | some o =>
    if selectionTooWide o then .next (s.refuseOrder o .badArg)
    else .next (s.maskOrder o ports (OrderKind.admits .clearFlags) fun p s => s.clearFlagsAt (flagSelection o) p)
  | none => .next s

/-- HANDOVER (R21, R174). -/
def execHandover (ports : PortMask) (s : State) : Host.Outcome State Fault Refusal :=
  match s.handedOrder .handover with
  | some o => .next (s.maskOrder o ports (OrderKind.admits .handover) handoverAt)
  | none => .next s

/-- WITHDRAW (R21, R174). -/
def execWithdraw (ports : PortMask) (s : State) : Host.Outcome State Fault Refusal :=
  match s.handedOrder .withdraw with
  | some o => .next (s.maskOrder o ports (OrderKind.admits .withdraw) withdrawAt)
  | none => .next s

/-! ### WATCH_SETUP (R53, R55) -/

/-- The four values are installed and the held condition is loaded; a period that differs restarts the sample timer. -/
def State.installWatch (s : State) (a : WatchMode × PortMask × PortMask × Nat) : State :=
  { s with watch := { s.watch with mode := a.1, ignore := a.2.1, compare := a.2.2.1,
                                   held := matchCondition s.debounced a.2.1 a.2.2.1 },
           sampleElapsed := if a.2.2.2 = s.samplePeriod then s.sampleElapsed else 0,
           samplePeriod := a.2.2.2 }

/-- What a WATCH_SETUP does (R55). -/
def State.watchEffect (s : State) (o : Order) : State :=
  match watchArguments o.record with
  | some a => s.installWatch a
  | none => s

/-- WATCH_SETUP (R55). -/
def execWatchSetup (s : State) : Host.Outcome State Fault Refusal :=
  match s.handedOrder .watchSetup with
  | some o =>
    match watchArguments o.record with
    | some a => .next ((s.installWatch a).completeOrder o .ok 0 none)
    | none => .next (s.refuseOrder o .badArg)
  | none => .next s

/-! ### SCAN_SETUP, SCAN_START, SCAN_STOP (R153 to R158) -/

/-- Steps 1 and 2 of a setup up to its first read (R154): the scan drains, the pacer stops, the list is cleared. -/
def State.beginSetup (s : State) (x : ScanSetup) : State :=
  let s := s.stopScan
  s.setScan { s.scan with pacerOn := false, list := [], pointer := 0, setup := some x }

/-- SCAN_SETUP (R153, R154). -/
def execScanSetup (s : State) : Host.Outcome State Fault Refusal :=
  match s.handedOrder .scanSetup with
  | some o =>
    match scanArguments o.record with
    | some x => .next ((s.setOrder { o with stage := .working }).beginSetup x)
    | none => .next (s.refuseOrder o .badArg)
  | none => .next s

/-- A setup with one more entry (R154 step 2). -/
def ScanSetup.addEntry (x : ScanSetup) (w : Word) : ScanSetup :=
  { x with entries := x.entries ++ [(scanEntryOf w).1], invalid := x.invalid + clampCount (scanEntryOf w).2 }

/-- SCAN_LIST_ENTRY_READ_DONE (R154). -/
def execScanListEntryReadDone (entry : Word) (s : State) : Host.Outcome State Fault Refusal :=
  match s.scan.setup with
  | some x =>
    if x.entries.length < x.count then .next { s with scan := { s.scan with setup := some (x.addEntry entry) } }
    else .next s
  | none => .next s

/-- The Scheduler with a setup installed (R154 step 4). -/
def Scheduler.installed (c : Scheduler) (x : ScanSetup) : Scheduler :=
  { c with list := x.entries, pointer := 0, state := .idle, mode := x.mode, start := x.start, stop := x.stop,
           period := x.period, pacerOn := false, elapsed := 0, passes := 0, overruns := 0, postStop := 0, setup := none }

/-- SCAN_SETUP_INSTALL (R154 steps 3 to 6): all entries read and no check in flight. -/
def execScanSetupInstall (s : State) : Host.Outcome State Fault Refusal :=
  match s.workingOrder .scanSetup, s.scan.setup with
  | some o, some x =>
    if x.entries.length ≥ x.count ∧ s.scan.inFlight = none then
      let s := (s.setScan (s.scan.installed x)).completeOrder o .ok 0
        (some (BitVec.ofNat 8 x.invalid, BitVec.ofNat 8 x.clamps))
      .next (if x.start = .immediate then s.startTrigger else s)
    else .next s
  | _, _ => .next s

/-- SCAN_START (R155). -/
def execScanStart (s : State) : Host.Outcome State Fault Refusal :=
  match s.handedOrder .scanStart with
  | some o =>
    if s.scan.state = .idle ∧ s.scan.list = [] then .next (s.refuseOrder o .badState)
    else .next (s.startTrigger.completeOrder o .ok 0 none)
  | none => .next s

/-- SCAN_STOP (R158). -/
def execScanStop (s : State) : Host.Outcome State Fault Refusal :=
  match s.handedOrder .scanStop with
  | some o => .next (s.stopScan.completeOrder o .ok 0 none)
  | none => .next s

/-! ### REPORT (R175) -/

/-- The one port a mask names, if it names exactly one. -/
def onlyPort (m : PortMask) : Option PortId := allPorts.find? fun p => m == portBit p

/-- REPORT (R175): the report is captured and its write begins. -/
def execReport (s : State) : Host.Outcome State Fault Refusal :=
  match s.handedOrder .report with
  | some o =>
    let target := recordAddress o.record
    match onlyPort (toPortMask (recordMask o.record)) with
    | some p =>
      if target.toNat % 64 ≠ 0 then .next (s.refuseOrder o .badArg)
      else .next (s.setOrder { o with stage := .reporting target p (s.reportBytes p) })
    | none => .next (s.refuseOrder o .badArg)
  | none => .next s

/-- REPORT_WRITE_DONE (R175): the last write has been issued (log 6). -/
def execReportWriteDone (s : State) : Host.Outcome State Fault Refusal :=
  match s.walker.order? with
  | some o =>
    match o.stage with
    | .reporting target p bytes => .next ((s.issue target bytes).completeOrder o .ok (portBit p) none)
    | _ => .next s
  | none => .next s

/-! ### Memory access errors (R176) -/

/-- What a mask order does at the ports that have not yet taken it (R176). -/
def State.maskEffect (s : State) (o : Order) (act : PortId → State → State) : State :=
  (takeAtPorts o.kind.admits act o.waiting s o.applied).1

/-- The effect of an order in progress that an error does not undo: an order without time takes effect where it has not yet
(R176, log 8); a timed order leaves nothing. -/
def State.lateEffect (s : State) (o : Order) : State :=
  if o.stage ≠ .handed then s
  else match o.kind with
    | .restart => s.maskEffect o restartAt
    | .hold => s.maskEffect o holdAt
    | .release => s.maskEffect o releaseAt
    | .delatch => s.maskEffect o delatchAt
    | .clearRetries => s.maskEffect o zeroRetriesAt
    | .clearFlags => if selectionTooWide o then s else s.maskEffect o fun p s => s.clearFlagsAt (flagSelection o) p
    | .handover => s.maskEffect o handoverAt
    | .withdraw => s.maskEffect o withdrawAt
    | .planPatch => s.patchEffect o
    | .watchSetup => s.watchEffect o
    | .scanStart => s.startTrigger
    | .scanStop => s.stopScan
    | _ => s

/-- A SCAN_SETUP that ends in an error, however far it is, leaves no list and IDLE; a check in flight goes on (R154, R176, log 8). -/
def State.abandonSetup (s : State) : State :=
  let s := s.stopScan
  s.setScan { s.scan with list := [], pointer := 0, state := .idle, pacerOn := false, elapsed := 0, setup := none }

/-- What a timed order leaves when an error ends it (R39, R154, R176): a load no shadow, a setup no list. -/
def State.abandonTimed (s : State) (k : OrderKind) : State :=
  match k with
  | .loadPlan => { s with plan := { s.plan with load := none } }
  | .scanSetup => s.abandonSetup
  | _ => s

/-- The order in progress ends without completing (R176): MEMORY_FAULT is written into its record unless the error was on a write to that
record. With the TAKEN write still under way there is no order in progress: its record stays TAKEN and does not become the anchor
(log 46). -/
def State.abandonOrder (s : State) (access : Access) : State :=
  match s.walker.order? with
  | none => s
  | some o =>
    let s := (s.lateEffect o).abandonTimed o.kind
    if access = .recordWrite o.address then s else s.issue (o.address + 10) [OrderOutcome.memoryFault.code]

/-- The page writer stops (R176). -/
def State.stopPage (s : State) : State := { s with page := { s.page with stopped := true, busy := none } }.markWholePage

/-- A write that has been issued is one of the accesses `a` (R176): the state byte of the record, the 128 bytes of a report, the 60 bytes
of fields of a page item. Each write to a record, to a page or of a report is one of these or goes with one. -/
def Issued.belongsTo (a : Access) (i : Issued) : Bool :=
  match a, i with
  | .recordWrite r, .write x bytes => x == r + 9 && bytes.length == 1
  | .reportWrite, .write _ bytes => bytes.length == 128
  | .pageWrite, .write _ bytes => bytes.length == 60
  | _, _ => false

/-- The record of the order in progress. -/
def State.orderRecord (s : State) : Option Address := s.walker.order?.map (·.address)

/-- A report is being written (R175). -/
def State.reporting (s : State) : Bool :=
  match s.walker.order? with
  | some o => (match o.stage with | .reporting _ _ _ => true | _ => false)
  | none => false

/-- What a FETCHING walker is at. -/
def Walker.fetchPhase? : Walker → Option FetchPhase
  | .fetching f _ => some f
  | _ => none

/-- The entries of a setup are being read (R154). -/
def State.readingList (s : State) : Bool :=
  match s.scan.setup with
  | some x => decide (x.entries.length < x.count)
  | none => false

/-- Whether the access is under way or, of a write, has been issued since cold reset, so that an error on it may still come (log 8). -/
def State.underWay (s : State) (a : Access) : Bool :=
  match a with
  | .linkRead => s.walker.fetchPhase? == some .link
  | .recordRead => (match s.walker.fetchPhase? with | some (.record _) => true | _ => false)
  | .takenWrite => (match s.walker.fetchPhase? with | some (.take _ _) => true | _ => false)
  | .recordWrite r => s.orderRecord == some r || s.posted.any (·.belongsTo (.recordWrite r))
  | .planRead => s.walker.order?.isSome && s.plan.load.isSome
  | .listRead => s.walker.order?.isSome && s.readingList
  | .reportWrite => s.reporting || s.posted.any (·.belongsTo .reportWrite)
  | .pageWrite => s.page.busy.isSome || s.posted.any (·.belongsTo .pageWrite)

/-- A memory error has halted the walker: a further one changes nothing more (R176). -/
def State.memoryHalted (s : State) : Bool := s.walker == .halted && s.lastWorkFault == .memory

/-- MEMORY_ACCESS_ERROR (R176), in one event. The MEMORY_FAULT write is issued first, before WORK_FAULT is set and may send the
interrupt (log 48). -/
def execMemoryAccessError (access : Access) (s : State) : Host.Outcome State Fault Refusal :=
  if s.underWay access && !s.memoryHalted then .next ((s.abandonOrder access).workFault .memory).stopPage
  else .next s

end Sys2Proof.Machine
end

