-- ==== Sys2Proof/Machine/Page.lean ====
section
/-! DEFINITION. The page writer (R179 to R181). -/

namespace Sys2Proof.Machine

/-- The lowest dirty port above the last port written, wrapping to the lowest dirty port (R181). -/
def PageWriter.nextPort (w : PageWriter) : Option PortId :=
  match w.lastPort with
  | some l =>
    match allPorts.find? fun p => decide (l < p) && maskHas w.dirty p with
    | some p => some p
    | none => allPorts.find? fun p => maskHas w.dirty p
  | none => allPorts.find? fun p => maskHas w.dirty p

/-- The next item (R181): the header when it is marked and was not the last item, else a dirty port; with no port dirty a marked
header (log 35). -/
def PageWriter.nextItem (w : PageWriter) : Option PageItem :=
  if w.headerMark && !w.lastWasHeader then some .header
  else match w.nextPort with
    | some p => some (.snapshot p)
    | none => if w.headerMark then some .header else none

/-- The version count of an item. -/
def PageWriter.version (w : PageWriter) (i : PageItem) : Word :=
  match i with
  | .header => w.headerVersion
  | .snapshot p => w.versions[p]

def PageWriter.setVersion (w : PageWriter) (i : PageItem) (v : Word) : PageWriter :=
  match i with
  | .header => { w with headerVersion := v }
  | .snapshot p => { w with versions := w.versions.set p v }

/-- The item leaves the dirty set, or the header mark is cleared (R181). -/
def PageWriter.unmark (w : PageWriter) (i : PageItem) : PageWriter :=
  match i with
  | .header => { w with headerMark := false }
  | .snapshot p => { w with dirty := w.dirty &&& ~~~(portBit p) }

/-- The last item written (R180). -/
def PageWriter.noteWritten (w : PageWriter) (i : PageItem) : PageWriter :=
  match i with
  | .header => { w with lastWasHeader := true }
  | .snapshot p => { w with lastPort := some p, lastWasHeader := false }

/-- The address of an item on the page (R179). -/
def itemAddress (base : Address) (i : PageItem) : Address :=
  match i with
  | .header => base
  | .snapshot p => base + BitVec.ofNat 64 (64 * (p.val + 1))

/-- The fields of an item, its bytes 4 to 63 (R190). -/
def State.itemFields (s : State) (i : PageItem) : List Byte :=
  match i with
  | .header => s.headerFields
  | .snapshot p => (s.ctx p).snapshotFields p

/-- Step 1 of a write (R181): an even count is raised by 1, an odd one is written unchanged. -/
def oddVersion (v : Word) : Word := if v.getLsbD 0 then v else v + 1

/-- The write of an item begins (R181): its values are taken, the odd count and the fields are issued (log 6). A
raised count of the header's own does not mark the header (log 53). -/
def State.beginItem (s : State) (i : PageItem) : State :=
  let a := itemAddress s.pageBase i
  let v := oddVersion (s.page.version i)
  let fields := s.itemFields i
  let s := (s.issue a (leBytes 4 v.toNat)).issue (a + 4) fields
  { s with page := { (s.page.setVersion i v).unmark i with busy := some { item := i, base := s.pageBase } } }

/-- PAGE_ITEM_WRITE (R181): one item at a time, while the writer is not stopped and the base is not 0. -/
def execPageItemWrite (s : State) : Host.Outcome State Fault Refusal :=
  if s.page.stopped ∨ s.pageBase = 0 ∨ s.page.busy.isSome then .next s
  else match s.page.nextItem with
    | some i => .next (s.beginItem i)
    | none => .next s

/-- PAGE_ITEM_WRITE_DONE (R181): the even count is issued at the base the write began with (R180). A raised
count of the header's own does not mark the header (log 53). -/
def execPageItemWriteDone (s : State) : Host.Outcome State Fault Refusal :=
  match s.page.busy with
  | some b =>
    let v := s.page.version b.item + 1
    let s := s.issue (itemAddress b.base b.item) (leBytes 4 v.toNat)
    .next { s with page := { (s.page.setVersion b.item v).noteWritten b.item with busy := none } }
  | none => .next s

end Sys2Proof.Machine
end

