-- ==== Sys2Proof/Machine/PortTimers.lean ====
section
/-! DEFINITION. The expiries of the port timers, and the plan-change notice (R12 to R14, R22, R23, R42 to R45, R115, R142). -/

namespace Sys2Proof.Machine

/-- A timer that runs has reached its length. -/
def expired (t : Option Nat) (length : Nat) : Bool :=
  match t with
  | some n => n ≥ length
  | none => false

/-- LOCK_SEARCH_EXPIRY (R12). -/
def execLockSearchExpiry (p : PortId) (s : State) : Host.Outcome State Fault Refusal :=
  if s.portState p = .listen ∧ expired (s.port p).timers.lockSearch Config.lockSearchCycles then .next (s.fault p .noLock)
  else .next s

/-- GREET_TIMER_EXPIRY (R13). -/
def execGreetTimerExpiry (p : PortId) (s : State) : Host.Outcome State Fault Refusal :=
  if s.portState p = .greet ∧ expired (s.port p).timers.greet Config.greetCycles then .next (s.fault p .noGreeting)
  else .next s

/-- PEER_DELAY_WAIT_EXPIRY (R14, R115). -/
def execPeerDelayWaitExpiry (p : PortId) (s : State) : Host.Outcome State Fault Refusal :=
  if s.portState p = .measure ∧ expired (s.port p).timers.peerDelay Config.peerDelayCycles then
    .next (s.fault p .delayUnstable)
  else .next s

/-- SCAN_WAIT_EXPIRY (R115, R162): the SCAN job ends and is reported as unanswered. -/
def execScanWaitExpiry (p : PortId) (s : State) : Host.Outcome State Fault Refusal :=
  let m := (s.port p).meter
  if m.scanJob.isSome ∧ m.scanWait ≥ Config.scanWaitCycles then
    .next ((s.updMeter p fun m => m.endJob .scan).endUnanswered p .delay)
  else .next s

/-- LAPSE_EXPIRY (R22). -/
def execLapseExpiry (p : PortId) (s : State) : Host.Outcome State Fault Refusal :=
  if linkState (s.portState p) ∧ expired (s.port p).timers.lapse Config.lapseCycles then .next (s.fault p .linkLost)
  else .next s

/-- BLOCK_ERROR_WINDOW_END (R23). -/
def execBlockErrorWindowEnd (p : PortId) (s : State) : Host.Outcome State Fault Refusal :=
  if s.portState p = .handed ∧ expired (s.port p).timers.blockWindow Config.blockWindowCycles then
    .next ((s.updCtx p fun c => { c with windowCount := 0 }).updPort p fun x =>
      { x with degradedCause := false, timers := { x.timers with blockWindow := some 0 } })
  else .next s

/-- RETRY_PERIOD_END (R27, R142): the counter is stepped, then the port enters AWAIT_FAR. -/
def execRetryPeriodEnd (p : PortId) (s : State) : Host.Outcome State Fault Refusal :=
  if s.portState p = .retryWait ∧ (s.port p).timers.retryRemaining = some 0 then
    .next ((s.updCtx p fun c => { c with retryCounter := s.steppedCounter p }).goTo p (.plain .awaitFar))
  else .next s

/-! ### Plan-change notices -/

/-- The retry part of a notice (R44). -/
def State.noticeRetry (s : State) (p : PortId) (n : Notice) : State :=
  let st := s.portState p
  if n.retryPolicy then
    let s := s.clearRetriesAt p
    if st = .latched ∨ st = .retryWait then s.goTo p .retryWait else s
  else if n.retryClass ∧ st = .retryWait then s.goTo p .retryWait
  else s

/-- READY is worked out again, and R18 tested where it becomes 1 (R16, R18). -/
def State.reReady (s : State) (p : PortId) : State :=
  let was := (s.port p).ready
  let s := s.setReady p
  if !was && (s.port p).ready then s.handoverTest p else s

/-- A notice in QUALIFIED or HANDED (R45): the re-verdict, and in a port that stays, READY and the threshold. -/
def State.noticeLink (s : State) (p : PortId) : State :=
  let s := s.reVerdict p
  if linkState (s.portState p) then (s.reReady p).budgetCompare p else s

/-- The state-dependent part of a notice without a type change (R45). -/
def State.noticeState (s : State) (p : PortId) : State :=
  match s.portState p with
  | .qualified => s.noticeLink p
  | .handed => s.noticeLink p
  | .exercise => s.reVerdict p
  | .miswired => s.reVerdict p
  | .relaying => s.legVerdict p
  | _ => s

/-- PLAN_CHANGE_NOTICE (R42 to R45): the oldest notice of the port. -/
def execPlanChangeNotice (p : PortId) (s : State) : Host.Outcome State Fault Refusal :=
  match (s.port p).notices with
  | [] => .next s
  | n :: rest =>
    let s := (s.updPort p fun x => { x with notices := rest }).noticeRetry p n
    .next (if n.typeChange then s.restartPort p else s.noticeState p)

end Sys2Proof.Machine
end

