-- ==== Sys2Proof/Machine/Window.lean ====
section
/-! DEFINITION. Resets, register writes and the millisecond count (R1, R2, R7, R32, R33, R166, R167, R169, R177 to R183). -/

namespace Sys2Proof.Machine

/-! ### Cold reset -/

/-- COLD_RESET (R1, R33, R34, R51, R54, R66, R71, R85, R86, R107, R120, R124, R139, R146, R152, R166, R178, R180): every block
at its cold reset values, every access in progress stopped. The commands waiting, what has been issued, what was driven on the
identity bus, what the external selector last took and the free-value counter are outside the block (log 30). -/
def execColdReset (s : State) : Host.Outcome State Fault Refusal :=
  .next { State.reset with pending := s.pending, issued := s.issued, accessesFrom := s.issued.length,
                           free := s.free, identityBus := s.identityBus,
                           selector := { resetSelector with strobed := s.selector.strobed } }

/-! ### CONTROL (R167) -/

/-- The walker when RUN changes from 0 to 1 (R169, R170, R178, log 9). -/
def State.walkerRun (s : State) : State :=
  match s.walker with
  | .stopped => s.startFetch
  | .stopping o => s.setWalker (.acting o)
  | _ => s

/-- The walker when RUN changes from 1 to 0 (R170, R178); the TAKEN write of a fetch goes on (log 9). -/
def State.walkerStop (s : State) : State :=
  match s.walker with
  | .idle _ => s.setWalker .stopped
  | .fetching .link _ => s.setWalker (.fetching .link true)
  | .fetching (.record a) _ => s.setWalker (.fetching (.record a) true)
  | .acting o => s.setWalker (.stopping o)
  | _ => s

/-- RUN is written (R7, R32, R167); its current value has no effect. -/
def State.writeRun (s : State) (b : Bool) : State :=
  if b = s.run then s
  else
    let s := { s with run := b }.markHeader
    if b then (if s.plan.inEffect then s.walkerRun.leaveDormant else s.walkerRun)
    else s.walkerStop.stopPorts

/-- IRQ_EN is written (R183). -/
def State.writeIrqEn (s : State) (b : Bool) : State :=
  let s := { s with irqEn := b }
  if b then s.testInterrupt else s

/-- RESUME = 1 (R177). -/
def State.resumeWalker (s : State) : State :=
  match s.walker with
  | .halted =>
    let s := if s.run then s.startFetch else s.setWalker .stopped
    { s with page := { s.page with stopped := false } }.markWholePage
  | _ => s

/-- The SCAN job of a DELAY check in flight ends without a result (R152). -/
def State.dropScanJob (s : State) : State :=
  match s.scan.inFlight with
  | some c => if c.kind = ScanKind.delay then s.updMeter c.port fun m => m.endJob .scan else s
  | none => s

/-- The Scan Scheduler at warm reset (R152): the check in flight is dropped without a result; the check number goes on
(log 23). -/
def State.warmScan (s : State) : State :=
  { s.dropScanJob with scan := { resetScheduler with checkNo := s.scan.checkNo } }

/-- The page writer at warm reset (R180): a write in progress completes, the whole page is dirty. -/
def State.warmPage (s : State) : State := { s with page := { s.page with stopped := false } }.markWholePage

/-- Warm reset (R33, R39, R54, R152, R166, R178, R180). SUMMARY ends at 0 and no interrupt is sent (log 24). With the TAKEN write under
way the fetch is discarded and the anchor kept (log 46). -/
def State.warmReset (s : State) : State :=
  let issued := s.issued
  let s := { s with run := false, walker := .stopped, lastWorkFault := .none,
                    plan := { s.plan with load := none },
                    watch := { s.watch with mode := .off, held := false } }.warmScan
  { s.stopPorts.warmPage with summary := 0, issued := issued }

/-- A write to CONTROL, taken as one event (R167), its fields in the order IRQ_EN, WARM_RESET, RUN, RESUME (log 4). With
WARM_RESET the walker is no longer halted and RUN ends at 0, so RUN and RESUME do nothing more; SUMMARY ends at 0, so the write
leaves no enabled bit set and sends no interrupt (R183). -/
def State.controlWrite (s : State) (warm run resume irqEn : Bool) : State :=
  if warm then { s with irqEn := irqEn }.warmReset
  else
    let s := (s.writeIrqEn irqEn).writeRun run
    if resume then s.resumeWalker else s

/-- The command that a write of `v` to CONTROL is (R167, R194): bit 0 RUN, bit 1 RESUME, bit 2 WARM_RESET, bit 3 IRQ_EN. The rows RESUME
and IRQ_EN_WRITE name the same write by another of its fields (log 4). -/
def controlCommand (v : Word) : Instr :=
  if v.getLsbD 2 then .warmReset (v.getLsbD 0) (v.getLsbD 1) (v.getLsbD 3)
  else if v.getLsbD 0 then .runSet (v.getLsbD 1) (v.getLsbD 3)
  else .runClear (v.getLsbD 1) (v.getLsbD 3)

/-- The command that a write of `v` at an offset of the register window is (R166, R194). -/
def writeCommand (offset : Nat) (v : Word) : Instr :=
  match offset with
  | 0x04 => controlCommand v
  | 0x08 => .anchorWrite false v
  | 0x0C => .anchorWrite true v
  | 0x10 => .pageLowWrite v
  | 0x14 => .pageHighWrite v
  | 0x18 => .nudge v
  | 0x1C => .summaryWrite v
  | 0x20 => .summaryEnableWrite v
  | _ => .registerWriteOther offset v

/-- RUN_SET (R7, R167, R169). -/
def execRunSet (resume irqEn : Bool) (s : State) : Host.Outcome State Fault Refusal :=
  .next (s.controlWrite false true resume irqEn)

/-- RUN_CLEAR (R32, R167, R178). -/
def execRunClear (resume irqEn : Bool) (s : State) : Host.Outcome State Fault Refusal :=
  .next (s.controlWrite false false resume irqEn)

/-- WARM_RESET (R33, R167, R178). -/
def execWarmReset (run resume irqEn : Bool) (s : State) : Host.Outcome State Fault Refusal :=
  .next (s.controlWrite true run resume irqEn)

/-- RESUME (R167, R177). -/
def execResume (run irqEn : Bool) (s : State) : Host.Outcome State Fault Refusal :=
  .next (s.controlWrite false run true irqEn)

/-- IRQ_EN_WRITE (R167, R183). -/
def execIrqEnWrite (run resume irqEn : Bool) (s : State) : Host.Outcome State Fault Refusal :=
  .next (s.controlWrite false run resume irqEn)

/-! ### The other registers (R166) -/

/-- Bits 0 to 5 of an address half are held at 0 (R166). -/
def alignHalf (v : Word) : Word := v &&& 0xFFFFFFC0

/-- ANCHOR_WRITE (R166): accepted only while RUN is 0. An order in progress keeps the address of its own record (log 47).
Every accepted write marks the header, one that leaves the address as it was included (log 53). -/
def execAnchorWrite (high : Bool) (v : Word) (s : State) : Host.Outcome State Fault Refusal :=
  if s.run then .next s
  else if high then .next { s with anchor := v ++ s.anchor.extractLsb' 0 32 }.markHeader
  else .next { s with anchor := s.anchor.extractLsb' 32 32 ++ alignHalf v }.markHeader

/-- PAGE_LOW_WRITE (R166): held, the page does not move. -/
def execPageLowWrite (v : Word) (s : State) : Host.Outcome State Fault Refusal :=
  .next { s with pageLow := alignHalf v }

/-- PAGE_HIGH_WRITE (R166, R180): the new base is installed and the whole page is dirty. -/
def execPageHighWrite (v : Word) (s : State) : Host.Outcome State Fault Refusal :=
  .next { s with pageBase := v ++ s.pageLow }.markWholePage

/-- NUDGE (R169), of any value. -/
def execNudge (_v : Word) (s : State) : Host.Outcome State Fault Refusal :=
  match s.walker with
  | .idle _ => .next s.startFetch
  | _ => .next s

/-- SUMMARY_WRITE (R182, R183): write 1 to clear, then the interrupt test. -/
def execSummaryWrite (v : Word) (s : State) : Host.Outcome State Fault Refusal :=
  .next { s with summary := s.summary &&& ~~~(v.setWidth 6) }.testInterrupt

/-- SUMMARY_ENABLE_WRITE (R166, R183). -/
def execSummaryEnableWrite (v : Word) (s : State) : Host.Outcome State Fault Refusal :=
  .next { s with summaryEnable := v.setWidth 6 }.testInterrupt

/-- REGISTER_WRITE_OTHER (R166, R185): no effect. -/
def execRegisterWriteOther (_offset : Nat) (_v : Word) (s : State) : Host.Outcome State Fault Refusal := .next s

/-! ### The millisecond count (R2) -/

/-- The retry period of a port has one millisecond less remaining (R141). -/
def Timers.countMs (t : Timers) : Timers := { t with retryRemaining := t.retryRemaining.map (· - 1) }

/-- The walk timer (R169). -/
def Walker.countMs (w : Walker) : Walker :=
  match w with
  | .idle n => .idle (satInc Config.walkTimerMs n)
  | w => w

/-- MILLISECOND_COUNT_ADVANCE (R2), with the timers counted in milliseconds (log 3): sample timer, walk timer, pacer, retry
periods. -/
def execMillisecondCountAdvance (s : State) : Host.Outcome State Fault Refusal :=
  .next { s with ms := s.ms + 1, sampleElapsed := s.sampleElapsed + 1, walker := s.walker.countMs,
                 scan := { s.scan with elapsed := if s.scan.pacerOn then s.scan.elapsed + 1 else s.scan.elapsed },
                 ports := Vector.ofFn fun p => { s.ports[p] with timers := s.ports[p].timers.countMs } }

end Sys2Proof.Machine
end

