-- ==== Sys2Proof/Machine/Dispatch.lean ====
section
/-! DEFINITION. One arm for each command. -/

namespace Sys2Proof.Machine

def exec (i : Instr) (s : State) : Host.Outcome State Fault Refusal :=
  match i with
  | .coldReset => Sys2Proof.Machine.execColdReset s
  | .runSet resume irqEn => Sys2Proof.Machine.execRunSet resume irqEn s
  | .runClear resume irqEn => Sys2Proof.Machine.execRunClear resume irqEn s
  | .warmReset run resume irqEn => Sys2Proof.Machine.execWarmReset run resume irqEn s
  | .resume run irqEn => Sys2Proof.Machine.execResume run irqEn s
  | .irqEnWrite run resume irqEn => Sys2Proof.Machine.execIrqEnWrite run resume irqEn s
  | .anchorWrite high v => Sys2Proof.Machine.execAnchorWrite high v s
  | .pageLowWrite v => Sys2Proof.Machine.execPageLowWrite v s
  | .pageHighWrite v => Sys2Proof.Machine.execPageHighWrite v s
  | .nudge v => Sys2Proof.Machine.execNudge v s
  | .summaryWrite v => Sys2Proof.Machine.execSummaryWrite v s
  | .summaryEnableWrite v => Sys2Proof.Machine.execSummaryEnableWrite v s
  | .registerWriteOther offset v => Sys2Proof.Machine.execRegisterWriteOther offset v s
  | .presenceSample raw windows resultFirst requestRipe => Sys2Proof.Machine.execPresenceSample raw windows resultFirst requestRipe s
  | .identTake => Sys2Proof.Machine.execIdentTake s
  | .identSettleEnd => Sys2Proof.Machine.execIdentSettleEnd s
  | .identAddressNack => Sys2Proof.Machine.execIdentAddressNack s
  | .identRetryGapEnd => Sys2Proof.Machine.execIdentRetryGapEnd s
  | .identReadDone => Sys2Proof.Machine.execIdentReadDone s
  | .identGuardEnd => Sys2Proof.Machine.execIdentGuardEnd s
  | .txCycleStart p => Sys2Proof.Machine.execTxCycleStart p s
  | .txFrameStart p above => Sys2Proof.Machine.execTxFrameStart p above s
  | .messageSendStart p => Sys2Proof.Machine.execMessageSendStart p s
  | .byteTimerExpiry p => Sys2Proof.Machine.execByteTimerExpiry p s
  | .frameLock p bits => Sys2Proof.Machine.execFrameLock p bits s
  | .rxSyncCheck p sync => Sys2Proof.Machine.execRxSyncCheck p sync s
  | .rxFrameFields p bits senderFirst => Sys2Proof.Machine.execRxFrameFields p bits senderFirst s
  | .rxCycleEnd p => Sys2Proof.Machine.execRxCycleEnd p s
  | .lowSignalCauseStart p => Sys2Proof.Machine.execLowSignalCauseStart p s
  | .lowSignalCauseEnd p => Sys2Proof.Machine.execLowSignalCauseEnd p s
  | .arrivalMark p ticks => Sys2Proof.Machine.execArrivalMark p ticks s
  | .exerciserGrant p => Sys2Proof.Machine.execExerciserGrant p s
  | .laneSelectorLoadStart => Sys2Proof.Machine.execLaneSelectorLoadStart s
  | .laneSelectorLoadDone => Sys2Proof.Machine.execLaneSelectorLoadDone s
  | .checkerMarkerFound e lane ui => Sys2Proof.Machine.execCheckerMarkerFound e lane ui s
  | .checkerLocked e lane => Sys2Proof.Machine.execCheckerLocked e lane s
  | .markerArrival e lane ui => Sys2Proof.Machine.execMarkerArrival e lane ui s
  | .peerStartExpiry p => Sys2Proof.Machine.execPeerStartExpiry p s
  | .trainingEnd p => Sys2Proof.Machine.execTrainingEnd p s
  | .soakUnitEnd p => Sys2Proof.Machine.execSoakUnitEnd p s
  | .soakEnd p => Sys2Proof.Machine.execSoakEnd p s
  | .lockSearchExpiry p => Sys2Proof.Machine.execLockSearchExpiry p s
  | .greetTimerExpiry p => Sys2Proof.Machine.execGreetTimerExpiry p s
  | .peerDelayWaitExpiry p => Sys2Proof.Machine.execPeerDelayWaitExpiry p s
  | .scanWaitExpiry p => Sys2Proof.Machine.execScanWaitExpiry p s
  | .lapseExpiry p => Sys2Proof.Machine.execLapseExpiry p s
  | .blockErrorWindowEnd p => Sys2Proof.Machine.execBlockErrorWindowEnd p s
  | .retryPeriodEnd p => Sys2Proof.Machine.execRetryPeriodEnd p s
  | .planChangeNotice p => Sys2Proof.Machine.execPlanChangeNotice p s
  | .walkTimerExpiry => Sys2Proof.Machine.execWalkTimerExpiry s
  | .linkReadDone link => Sys2Proof.Machine.execLinkReadDone link s
  | .recordReadDone record => Sys2Proof.Machine.execRecordReadDone record s
  | .takenWriteDone => Sys2Proof.Machine.execTakenWriteDone s
  | .loadPlan => Sys2Proof.Machine.execLoadPlan s
  | .planHeaderReadDone header => Sys2Proof.Machine.execPlanHeaderReadDone header s
  | .planEntryReadDone entry => Sys2Proof.Machine.execPlanEntryReadDone entry s
  | .planPatch => Sys2Proof.Machine.execPlanPatch s
  | .restart ports => Sys2Proof.Machine.execRestart ports s
  | .hold ports => Sys2Proof.Machine.execHold ports s
  | .release ports => Sys2Proof.Machine.execRelease ports s
  | .delatch ports => Sys2Proof.Machine.execDelatch ports s
  | .clearRetries ports => Sys2Proof.Machine.execClearRetries ports s
  | .clearFlags ports => Sys2Proof.Machine.execClearFlags ports s
  | .handover ports => Sys2Proof.Machine.execHandover ports s
  | .withdraw ports => Sys2Proof.Machine.execWithdraw ports s
  | .watchSetup => Sys2Proof.Machine.execWatchSetup s
  | .scanSetup => Sys2Proof.Machine.execScanSetup s
  | .scanListEntryReadDone entry => Sys2Proof.Machine.execScanListEntryReadDone entry s
  | .scanSetupInstall => Sys2Proof.Machine.execScanSetupInstall s
  | .scanStart => Sys2Proof.Machine.execScanStart s
  | .scanStop => Sys2Proof.Machine.execScanStop s
  | .report => Sys2Proof.Machine.execReport s
  | .reportWriteDone => Sys2Proof.Machine.execReportWriteDone s
  | .memoryAccessError access => Sys2Proof.Machine.execMemoryAccessError access s
  | .pageItemWrite => Sys2Proof.Machine.execPageItemWrite s
  | .pageItemWriteDone => Sys2Proof.Machine.execPageItemWriteDone s
  | .pacerTick => Sys2Proof.Machine.execPacerTick s
  | .peerReplyWaitExpiry p => Sys2Proof.Machine.execPeerReplyWaitExpiry p s
  | .laneCheckerError e lane => Sys2Proof.Machine.execLaneCheckerError e lane s
  | .identByteComplete b => Sys2Proof.Machine.execIdentByteComplete b s
  | .millisecondCountAdvance => Sys2Proof.Machine.execMillisecondCountAdvance s

end Sys2Proof.Machine
end

