-- ==== Sys2Proof/WellFormed.lean ====
section
/-! DEFINITION. Which commands the interface can carry. The types of the operands bound ports, exercisers, lanes,
ticks and record lengths; what is left is checked here. -/

namespace Sys2Proof

/-- The offsets of the registers that have a behaviour on a write (R194): all of the nine but IDENT. -/
def behavingOffsets : List Nat := [0x04, 0x08, 0x0C, 0x10, 0x14, 0x18, 0x1C, 0x20]

/-- A command is well formed: a REGISTER_WRITE_OTHER is an aligned 32-bit access (00_scope.md section 7, Register access)
at an offset whose register has no behaviour of its own on a write. -/
def Instr.wellFormed : Instr → Bool
  | .registerWriteOther offset _ => offset % 4 == 0 && !behavingOffsets.contains offset
  | _ => true

end Sys2Proof
end

