-- ==== Sys2Proof/Safety.lean ====
section
/-! DEFINITION. What a command leaves alone (frames), and what every step keeps (invariants). -/

namespace Sys2Proof.Machine

/-! ### Frames -/

/-- Two states agree on everything that is neither a port nor a block that ports share: the register window, the walker, the
plan, presence and the Watch, the clock, the commands waiting, the identity bus, and the page writer but for its marks. What may differ beside the
ports is the Pool, the Identity Reader, the selector and the Scheduler; SUMMARY bits and page marks are only added, and only
interrupts are issued. -/
structure SameHost (s t : State) : Prop where
  pending : t.pending = s.pending
  run : t.run = s.run
  irqEn : t.irqEn = s.irqEn
  anchor : t.anchor = s.anchor
  pageLow : t.pageLow = s.pageLow
  pageBase : t.pageBase = s.pageBase
  summary : s.summary &&& t.summary = s.summary
  summaryEnable : t.summaryEnable = s.summaryEnable
  msi : t.msi = s.msi
  walker : t.walker = s.walker
  lastWorkFault : t.lastWorkFault = s.lastWorkFault
  dirty : s.page.dirty &&& t.page.dirty = s.page.dirty
  headerMark : s.page.headerMark = true → t.page.headerMark = true
  page : { t.page with dirty := s.page.dirty, headerMark := s.page.headerMark } = s.page
  plan : t.plan = s.plan
  samplePeriod : t.samplePeriod = s.samplePeriod
  sampleElapsed : t.sampleElapsed = s.sampleElapsed
  raw : t.raw = s.raw
  debounced : t.debounced = s.debounced
  watch : t.watch = s.watch
  ms : t.ms = s.ms
  free : t.free = s.free
  identityBus : t.identityBus = s.identityBus
  accessesFrom : t.accessesFrom = s.accessesFrom
  issued : ∃ n, t.issued = s.issued ++ List.replicate n (.interrupt s.msi.address s.msi.data)

/-- A port without what a grant gives it: the held exerciser, its selector code and the peer start timer. -/
def Port.withoutGrant (x : Port) : Port :=
  { x with ctx := { x.ctx with heldExerciser := none }, selectorCode := none, timers := { x.timers with peerStart := none } }

/-- Two ports agree but for what a grant gives. -/
def SameButGrant (x y : Port) : Prop := y.withoutGrant = x.withoutGrant

/-- An event of port `p` alone: the host's side is as `SameHost` says, and every other port is as it was but for an exerciser that
port `p` gives back and another port is granted (R122). -/
def PortEvent (p : PortId) (s t : State) : Prop :=
  SameHost s t ∧ ∀ q, q ≠ p → SameButGrant (s.port q) (t.port q)

/-- A port without the messages that wait in its channel. -/
def Port.withoutQueue (x : Port) : Port := { x with channel := { x.channel with queue := [] } }

/-- Two ports agree but for what a grant gives and the messages waiting. -/
def SameButQueue (x y : Port) : Prop := y.withoutGrant.withoutQueue = x.withoutGrant.withoutQueue

/-- An event of port `p` that may hand a HELLO to its relay partner (R102): as `PortEvent`, but for the messages waiting at the
partner. -/
def RelayEvent (p : PortId) (s t : State) : Prop :=
  SameHost s t ∧
    ∀ q, q ≠ p → SameButQueue (s.port q) (t.port q) ∧ (s.partner p ≠ some q → SameButGrant (s.port q) (t.port q))

/-- IRQ_EN is written `b`; setting it sends the interrupt where SUMMARY and SUMMARY_ENABLE meet and the capability is enabled
(R183). -/
def State.irqWritten (s : State) (b : Bool) : State :=
  { s with
    irqEn := b
    issued := s.issued ++
      (if b = true ∧ s.summary &&& s.summaryEnable ≠ 0 ∧ s.msi.enabled = true then [.interrupt s.msi.address s.msi.data]
       else []) }

/-! ### State entries and faults -/

/-- A context without the items that other blocks record: the held exerciser (the Pool), the scan record (the Scheduler) and the
relay drop count. -/
def Context.own (c : Context) : Context :=
  { c with heldExerciser := none, lastScanKind := none, scanResult := .none, scanPass := 0, relayDrops := 0 }

/-- A port with its context's own items alone, without what a grant gives, its meter, and the messages waiting. -/
def Port.own (x : Port) : Port :=
  { x.withoutGrant.withoutQueue with ctx := x.ctx.own, meter := resetMeter }

/-- The port right after it enters state `st` (R2, R3, R5, R6, R16 to R18, R24), before the entry actions of that state. -/
def Port.afterEntry (x : Port) (st : PortState) (ms : Word) : Port :=
  let old := x.ctx.state
  let x := if old = .handed then x.handoverOff else x
  let x := if x.framer.tx.isSome && !st.transmits then
      { x with framer := resetFramer, channel := resetChannel, onState := ⟨0, 0, false⟩ }
    else x
  { x with timers := x.timers.left old st }.entered st ms

/-- Port `p` has entered state `st` (R2, R3, R18): an event of port `p` alone, with the four things of an entry, HANDOVER asserted
exactly in HANDED, and the transmitter off where `st` does not transmit. -/
structure Entered (p : PortId) (st : PortState) (s t : State) : Prop where
  event : PortEvent p s t
  state : t.portState p = st
  stamp : (t.ctx p).stamp = s.ms
  dirty : maskHas t.page.dirty p = true
  portChange : t.summary.getLsbD 1 = true
  handover : (t.port p).handover = (st == .handed)
  transmitter : st.transmits = false → (t.port p).framer.tx = none

/-- The state that a retryable fault leads to (R26, R140), with the combinations R140 leaves out taken by policy and counter
(log 17): DORMANT for a HANDED port while RUN is 0, else LATCHED or RETRY_WAIT. -/
def State.faultState (s : State) (p : PortId) : PortState :=
  if s.run = false ∧ s.portState p = .handed then .dormant
  else match (s.entry p).retryPolicy with
    | .noRetry => .latched
    | .unlimited => .retryWait
    | .limited => if (s.ctx p).retryCounter ≥ 16 then .latched else .retryWait

/-- RETRY_FULL after a retryable fault (R140): set at counter 15 under LIMITED. -/
def State.fullAfterFault (s : State) (p : PortId) : Bool :=
  (s.ctx p).retryFull ||
    (!(s.run == false && s.portState p == .handed) && (s.entry p).retryPolicy == .limited && (s.ctx p).retryCounter == 15)

/-- Port `p` has taken a retryable fault (R26, R140, R141): the code, RETRY_FULL, the state; in RETRY_WAIT the period of its class,
four times as long under RETRY_FULL. The rest of the context is as at any entry. -/
structure FaultTaken (p : PortId) (code : FaultCode) (s t : State) : Prop where
  entered : Entered p (s.faultState p) s t
  context : (t.ctx p).own =
    ({ s.ctx p with lastFault := code, retryFull := s.fullAfterFault p }.entered (s.faultState p) s.ms).own
  period : s.faultState p = .retryWait →
    (t.port p).timers.retryLength =
        some (classPeriod (s.entry p).retryClass * (if s.fullAfterFault p then 4 else 1)) ∧
      (t.port p).timers.retryRemaining = (t.port p).timers.retryLength

/-! ### Verdicts, lengths and jobs -/

/-- A channel right after a channel reset, which keeps its queue (R86, R99). -/
def freshChannel (queue : List Message) : Channel :=
  { sender := .idle, sending := none, bytes := [], attempt := 1, byteIndex := 0, offeredS := false, lastTakeS := false
    onOffer := false, ackSeen := none, idleRun := 0, byteTimer := 0, k := false, j := false, receiver := .header, received := []
    remaining := 0, lastFrame := none, rxIdleRun := 0, queue := queue }

/-- A meter right after its clear, which keeps the last R2 and the last N2 (R117), and the model's own measurement number (log 23). -/
def Meter.emptied (m : Meter) : Meter :=
  { m with measureJob := none, legJob := none, scanJob := none, answerJob := none, phase := .idle, pairNumber := none
           biasMinus := false, lp := none, lm := none, spread := none, ownL2 := none, peerRecord := none, scanWait := 0 }

/-- A VALID cable fails check 3: its media class differs from the entry's, or its lanes are fewer (R47). -/
def CableFails (e : Entry) (c : Context) : Prop :=
  ∃ f, c.cable = .valid f ∧ ((∃ k, e.media = some k ∧ f.media ≠ k) ∨ f.lanes < e.lanes)

/-- A length lies further from nominal than the tolerance (R47). -/
def OffNominal (e : Entry) (n : Nat) : Prop := n > e.nominal + e.tolerance ∨ e.nominal > n + e.tolerance

/-- What the four checks find against entry `e` on the stored data of `c`, as a wiring verdict (`length` none), a length verdict or a
re-verdict runs them (R46 to R48). -/
structure Checked (e : Entry) (c : Context) (length : Option Nat) (m : VerdictMask) : Prop where
  unplanned : m.unplanned = true ↔ e.effective = .unplanned
  wrongPeer : m.wrongPeer = true ↔ e.effective ≠ .unplanned ∧
    ∃ i, c.peer = some i ∧ (i.chassis ≠ e.peerChassis ∨ i.port ≠ e.peerPort ∨ i.hops.toNat ≠ e.hops.toNat)
  mediaMismatch : m.mediaMismatch = true ↔ e.effective ≠ .unplanned ∧
    (CableFails e c ∨ ∃ i, c.peer = some i ∧ i.lanes < e.lanes)
  lengthMismatch : m.lengthMismatch = true ↔ e.effective ≠ .unplanned ∧ ∃ n, length = some n ∧ OffNominal e n

/-- What a leg verdict finds: check 3 without its peer condition, and check 4 where a length is present (R48). -/
structure LegChecked (e : Entry) (c : Context) (m : VerdictMask) : Prop where
  unplanned : m.unplanned = false
  wrongPeer : m.wrongPeer = false
  mediaMismatch : m.mediaMismatch = true ↔ CableFails e c
  lengthMismatch : m.lengthMismatch = true ↔ ∃ n, c.length = some n ∧ OffNominal e n

/-- Some check failed: the verdict is not MATCH. -/
def VerdictMask.failed (m : VerdictMask) : Bool := m.unplanned || m.wrongPeer || m.mediaMismatch || m.lengthMismatch

/-- A verdict on the stored data of `c` has been recorded (R47, R48, R50): the first check that failed, the mask, MEDIA_UNVERIFIED where
check 3 was evaluated on a cable that is not VALID, and, of a verdict that is no leg verdict, EPOCH_DIFFERS. -/
structure VerdictTaken (p : PortId) (c : Context) (m : VerdictMask) (leg : Bool) (s t : State) : Prop where
  verdict : (t.ctx p).lastVerdict =
    if m.unplanned then .unplanned else if m.wrongPeer then .wrongPeer else if m.mediaMismatch then .mediaMismatch
    else if m.lengthMismatch then .lengthMismatch else .matched
  mask : (t.ctx p).verdictMask = m
  unverified : (t.ctx p).hasFlag .mediaUnverified =
    ((s.ctx p).hasFlag .mediaUnverified || (!m.unplanned && !c.cable.isValid))
  epoch : (t.ctx p).hasFlag .epochDiffers =
    ((s.ctx p).hasFlag .epochDiffers || (!leg && match c.peer with | some i => i.epoch != s.plan.epoch | none => false))
  dirty : maskHas t.page.dirty p = true

/-- The state in which a re-verdict or a leg verdict leaves a port (R24, R25, R32, R49). -/
def State.verdictLeaves (s : State) (p : PortId) (leg failed : Bool) : PortState :=
  let st := s.portState p
  if failed then
    if st = .handed ∧ s.run = false then .dormant
    else if st = .miswired ∨ (s.port p).framer.lock = .locked then .miswired else .listen
  else if st = .miswired then
    if leg then .relaying
    else match (s.ctx p).miswiredStage with
      | .greet => .measure
      | .measure => .exercise
      | .none => .miswired
  else st

/-- A HELLO that a relay leg forwards (R102). -/
def Message.forwards (m : Message) : Bool :=
  match m.body with
  | .hello (.forwarded _) _ => true
  | _ => false

/-- What a verdict on a leg in RELAYING does to its messages (R105): a leg that goes to MISWIRED discards the forwarded HELLOs that wait in its
queue and counts each as a relay drop, and the rest of the channel, a HELLO in transmission included, runs on; a leg that stays keeps all. -/
structure LegMessages (p : PortId) (s t : State) : Prop where
  leaves : s.portState p = .relaying → t.portState p = .miswired →
    (t.port p).channel = { (s.port p).channel with queue := (s.port p).channel.queue.filter fun m => !m.forwards } ∧
      (t.ctx p).relayDrops =
        Nat.min 65535 ((s.ctx p).relayDrops + ((s.port p).channel.queue.filter fun m => m.forwards).length)
  stays : s.portState p = .relaying → t.portState p = .relaying →
    (t.port p).channel = (s.port p).channel ∧ (t.ctx p).relayDrops = (s.ctx p).relayDrops

/-- Port `p` has judged the stored data of `c` again, as a leg where it is one (R25, R45, R48, R49). MISWIRED is a leg by
the entry in effect (log 54). -/
def JudgedAgain (p : PortId) (c : Context) (s t : State) : Prop :=
  let leg := s.portState p == .relaying || s.portState p == .miswired && (s.entry p).effective == .relay
  ∃ m, (if leg = true then LegChecked (s.entry p) c m else Checked (s.entry p) c c.length m) ∧ VerdictTaken p c m leg s t ∧
    t.portState p = s.verdictLeaves p leg m.failed ∧
    (m.failed = true → t.portState p = .miswired →
      (t.ctx p).miswiredStage =
        if leg = false ∧ (m.unplanned = true ∨ m.wrongPeer = true ∨ m.mediaMismatch = true) then .greet else .measure)

/-- A re-verdict or a leg verdict of port `p` on the stored data of `c`: what it finds, where it leads, and what it does to a leg's messages
(R25, R49, R105). -/
def ReVerdict (p : PortId) (c : Context) (s t : State) : Prop := JudgedAgain p c s t ∧ LegMessages p s t

/-- The wiring verdict of port `p` in GREET, LOCKED, has been taken on the stored data of `c` (R13, R14): MEASURE with the peer delay wait
and the MEASURE job started, or MISWIRED at stage GREET. -/
def WiringVerdict (p : PortId) (c : Context) (s t : State) : Prop :=
  ∃ m, Checked (s.entry p) c none m ∧ VerdictTaken p c m false s t ∧
    (m.failed = true → t.portState p = .miswired ∧ (t.ctx p).miswiredStage = .greet) ∧
    (m.failed = false → t.portState p = .measure ∧ (t.port p).timers.peerDelay = some 0 ∧
      (t.port p).meter.measureJob.isSome = true)

/-- The length in decimetres that port `p` stores for the own doubled offset and the peer's record (R64, R118, R119). -/
def State.lengthOf (s : State) (p : PortId) (own : Nat) (r : DelayRecord) : Nat :=
  let prop := match (s.ctx p).cable with
    | .valid f => f.propagation
    | _ => 4900
  let n2 := (own + r.l2) % 5632 - (104 + (s.entry p).trim + r.trim)
  let raw := (n2 * 31250 + prop) / (2 * prop)
  if raw > 4095 then 4095 else raw

/-- The jobs of port `p`, LOCKED, that have all their marks in `s` complete (R111, R115, R162): the record is judged, a length stored and
judged, a SCAN job's result recorded. -/
structure JobsCompleted (p : PortId) (s t : State) : Prop where
  event : PortEvent p s t
  unmarked : jobComplete (s.port p).meter.measureJob = false → jobComplete (s.port p).meter.legJob = false →
    scanComplete (s.port p).meter.scanJob = false → t = s
  measure : ∀ own r, (s.port p).framer.lock = .locked → (s.port p).meter.ownL2 = some own →
    (s.port p).meter.peerRecord = some r → jobComplete (s.port p).meter.measureJob = true → s.portState p = .measure →
    (r.unstable = true → (t.ctx p).lastFault = .delayUnstable ∧ t.portState p = s.faultState p) ∧
    (r.unstable = false → (t.ctx p).length = some (s.lengthOf p own r) ∧
      ∃ m, Checked (s.entry p) (s.ctx p) (some (s.lengthOf p own r)) m ∧ VerdictTaken p (s.ctx p) m false s t ∧
        (m.failed = true → t.portState p = .miswired ∧ (t.ctx p).miswiredStage = .measure) ∧
        (m.failed = false → t.portState p = .exercise ∧ p ∈ t.pool.requests))
  leg : ∀ own r, (s.port p).framer.lock = .locked → (s.port p).meter.ownL2 = some own →
    (s.port p).meter.peerRecord = some r → (s.port p).meter.measureJob = none →
    jobComplete (s.port p).meter.legJob = true → s.portState p = .relaying →
    (t.port p).meter.legJob = none ∧
      (r.unstable = true → t.portState p = .relaying ∧ (t.ctx p).length = (s.ctx p).length ∧
        (t.ctx p).lastVerdict = (s.ctx p).lastVerdict) ∧
      (r.unstable = false → (t.ctx p).length = some (s.lengthOf p own r) ∧
        ReVerdict p { s.ctx p with length := some (s.lengthOf p own r) } s t)
  scan : ∀ own r c, (s.port p).framer.lock = .locked → (s.port p).meter.ownL2 = some own →
    (s.port p).meter.peerRecord = some r → (s.port p).meter.measureJob = none →
    scanComplete (s.port p).meter.scanJob = true → s.scan.inFlight = some c → c.port = p → c.kind = .delay →
    s.portState p = .qualified ∨ s.portState p = .handed ∨ s.portState p = .miswired ∨ s.portState p = .relaying →
    t.scan.inFlight = none ∧ (t.port p).meter.scanJob = none ∧ (t.ctx p).lastScanKind = some .delay ∧
      (t.ctx p).scanPass = c.pass ∧
      (r.unstable = true → (t.ctx p).scanResult = .unstable ∧ t.portState p = s.portState p ∧
        (t.ctx p).length = (s.ctx p).length ∧ (t.ctx p).lastVerdict = (s.ctx p).lastVerdict) ∧
      (r.unstable = false → (t.ctx p).scanResult = .length ∧ (t.ctx p).length = some (s.lengthOf p own r) ∧
        ReVerdict p { s.ctx p with length := some (s.lengthOf p own r) } s t)

/-- A message of port `p` has failed after its fourth attempt (R95, R112, R161, R162), of purposes `x`. -/
structure MessageFailed (p : PortId) (x : Purposes) (s t : State) : Prop where
  event : PortEvent p s t
  relay : (t.ctx p).relayDrops =
    if x.relay = true ∧ (s.ctx p).relayDrops < 65535 then (s.ctx p).relayDrops + 1 else (s.ctx p).relayDrops
  greeting : x.greeting = true → s.portState p = .greet → (t.ctx p).lastFault = .channelFail ∧ t.portState p = s.faultState p
  measurement : x.measurement ≠ [] → s.portState p = .measure →
    (t.ctx p).lastFault = .channelFail ∧ t.portState p = s.faultState p
  leg : x.measurement ≠ [] → s.portState p = .relaying → (t.port p).meter.legJob = none ∧ t.portState p = .relaying
  scan : ∀ c, s.scan.inFlight = some c → c.port = p → c.number ∈ x.scan →
    t.scan.inFlight = none ∧ (t.ctx p).lastScanKind = some c.kind ∧ (t.ctx p).scanResult = .noReply ∧
      (t.ctx p).scanPass = c.pass ∧ (t.ctx p).hasFlag .peerNoReply = true ∧
      (c.kind = .delay → (t.port p).meter.scanJob = none)
  others : x.relay = false → x.scan = [] → x.measurement = [] → (x.greeting = false ∨ s.portState p ≠ .greet) → t = s

/-! ### Exercise windows and checkers -/

/-- Each exerciser has at most one holder and each port holds at most one; a port that holds one, waits for one or has asked for one is
in EXERCISE and does one of the three alone; the queue holds a port at most once, and is empty whenever an exerciser is free (R121,
R123). The set of those who have asked is the model's own (log 10). -/
structure PoolInv (s : State) : Prop where
  owned : ∀ (e : ExerciserId) (g : Grant), s.pool.owners[e] = some g → (s.ctx g.port).heldExerciser = some e
  held : ∀ (p : PortId) (e : ExerciserId), (s.ctx p).heldExerciser = some e → ∃ g, s.pool.owners[e] = some g ∧ g.port = p
  waits : ∀ p ∈ s.pool.queue, (s.ctx p).heldExerciser = none ∧ p ∉ s.pool.requests
  asks : ∀ p ∈ s.pool.requests, (s.ctx p).heldExerciser = none
  exercise : ∀ p, (s.ctx p).heldExerciser ≠ none ∨ p ∈ s.pool.queue ∨ p ∈ s.pool.requests → s.portState p = .exercise
  once : s.pool.queue.Nodup
  idle : ∀ e : ExerciserId, s.pool.owners[e] = none → s.pool.queue = []

/-- The soak of port `p` under grant `g` has ended, with results `r` before it (R133, R135): the counts copied, the exerciser returned, the
window evaluated. A window that passes leads to QUALIFIED with READY worked out (R16), and at once to HANDED exactly where `word`, the
effective word, allows it (R18). -/
structure SoakOver (p : PortId) (g : Grant) (r : ExerciseResults) (word : Option (BitVec 8)) (s t : State) : Prop where
  results : (t.ctx p).results =
    some { r with errors := Vector.ofFn fun i => if r.live[i] then g.checkers[i].errors else r.errors[i] }
  errorRate : (∃ i : LaneId, i.val < g.lanes ∧ (r.live[i] = false ∨ g.checkers[i].errors > (s.entry p).allowance)) →
    (t.ctx p).lastFault = .errorRate ∧ t.portState p = s.faultState p
  skew : (¬ ∃ i : LaneId, i.val < g.lanes ∧ (r.live[i] = false ∨ g.checkers[i].errors > (s.entry p).allowance)) →
    (∃ k, r.skew = some k ∧ k > (s.entry p).skewLimit) → (t.ctx p).lastFault = .skew ∧ t.portState p = s.faultState p
  passes : (¬ ∃ i : LaneId, i.val < g.lanes ∧ (r.live[i] = false ∨ g.checkers[i].errors > (s.entry p).allowance)) →
    (¬ ∃ k, r.skew = some k ∧ k > (s.entry p).skewLimit) →
    (t.ctx p).lastFault = (s.ctx p).lastFault ∧ (t.portState p = .qualified ∨ t.portState p = .handed) ∧
      (t.port p).ready = (!(s.ctx p).inhibited && ((s.entry p).policy == .auto || (s.ctx p).armed)) ∧
      (t.portState p = .handed ↔ (t.port p).ready = true ∧
        ∃ w, word = some w ∧ wordReady w = true ∧ (wordStage w = 8 ∨ wordStage w = 9))

/-- Port `p`, which held exerciser `e`, has stalled (R130). -/
structure Stalled (p : PortId) (e : ExerciserId) (s t : State) : Prop where
  requeued : (s.ctx p).stallCount < 2 →
    (t.ctx p).stallCount = (s.ctx p).stallCount + 1 ∧ t.portState p = s.portState p ∧
      (s.pool.queue = [] → (t.ctx p).heldExerciser = some e ∧ t.pool.queue = [] ∧ (t.port p).timers.peerStart = some 0 ∧
        ∃ g, t.pool.owners[e] = some g ∧ g.port = p ∧ g.phase = .start ∧ g.phaseCount = 0) ∧
      (∀ q rest, s.pool.queue = q :: rest → q ≠ p →
        (t.ctx p).heldExerciser = none ∧ t.pool.queue = rest ++ [p] ∧ (t.ctx q).heldExerciser = some e)
  faults : (s.ctx p).stallCount = 2 →
    (t.ctx p).stallCount = 3 ∧ (t.ctx p).lastFault = .peerStall ∧ t.portState p = s.faultState p

/-- Bit `n` counted from a marker's first bit (R125, R127): the run, and at the next marker's own 23 bits the seed again (log 14). -/
def expectedBit (i : LaneId) (n : Nat) : Bool := if n < runBits then patternBit i n else (laneSeed i).getMsbD (n - runBits)

/-- The next `m` bits that a checker at its place expects: 23 bits of the marker and `position` bits lie behind it. -/
def Checker.expects (c : Checker) (i : LaneId) (m : Nat) : List Bool :=
  (List.range m).map fun j => expectedBit i (c.position + 23 + j)

/-- The predictor of a checker holds the last 23 bits of the run at its place. -/
def Checker.inStep (c : Checker) (i : LaneId) : Prop :=
  c.position ≤ runBits ∧ (c.position + 23 ≤ runBits → c.predictor = patternWord i c.position)

/-! ### Bytes -/

/-- The number that bytes spell, least significant first. -/
def leNat : List Byte → Nat
  | [] => 0
  | b :: bs => b.toNat + 256 * leNat bs

/-- Of bytes that begin at byte `first` of a layout: the `width` bits from bit `bit` of byte `n` on. -/
def fieldAt (bytes : List Byte) (first n bit width : Nat) : Nat := leNat (bytes.drop (n - first)) / 2 ^ bit % 2 ^ width

/-- The 60 bytes from byte 4 on of a snapshot show a context (R190, R191); each value as far as its field holds it. -/
structure SnapshotShows (c : Context) (p : PortId) (bytes : List Byte) : Prop where
  length : bytes.length = 60
  port : fieldAt bytes 4 4 0 5 = p.val
  armed : fieldAt bytes 4 4 5 1 = bitNat c.armed
  inhibited : fieldAt bytes 4 4 6 1 = bitNat c.inhibited
  retryFull : fieldAt bytes 4 4 7 1 = bitNat c.retryFull
  state : fieldAt bytes 4 5 0 4 = c.state.code
  lastFault : fieldAt bytes 4 5 4 4 = c.lastFault.code
  lastVerdict : fieldAt bytes 4 6 0 3 = c.lastVerdict.code
  unplanned : fieldAt bytes 4 6 3 1 = bitNat c.verdictMask.unplanned
  wrongPeer : fieldAt bytes 4 6 4 1 = bitNat c.verdictMask.wrongPeer
  mediaMismatch : fieldAt bytes 4 6 5 1 = bitNat c.verdictMask.mediaMismatch
  lengthMismatch : fieldAt bytes 4 6 6 1 = bitNat c.verdictMask.lengthMismatch
  stage : fieldAt bytes 4 6 7 1 = if c.state = .miswired ∧ c.miswiredStage = .measure then 1 else 0
  retryCounter : fieldAt bytes 4 7 0 5 = c.retryCounter % 32
  exerciser : fieldAt bytes 4 7 5 3 = match c.heldExerciser with | some e => e.val | none => 7
  stallCount : fieldAt bytes 4 8 0 2 = c.stallCount % 4
  cable : fieldAt bytes 4 8 2 2 = match c.cable with | .none => 0 | .valid _ => 1 | .missing => 2 | .corrupt => 3
  media : fieldAt bytes 4 8 4 2 = match c.cable with | .valid f => f.media.code | _ => 0
  lanes : fieldAt bytes 4 8 6 2 = match c.cable with | .valid f => (f.lanes - 1) % 4 | _ => 0
  scanKind : fieldAt bytes 4 9 0 3 = match c.lastScanKind with | some k => k.code | none => 0
  scanResult : fieldAt bytes 4 9 3 4 = c.scanResult.code
  lengthPresent : fieldAt bytes 4 9 7 1 = bitNat c.length.isSome
  flags : fieldAt bytes 4 10 0 15 = c.flags.toNat
  peerPresent : fieldAt bytes 4 11 7 1 = bitNat c.peer.isSome
  marked : fieldAt bytes 4 12 0 16 = match c.cable with | .valid f => f.marked % 65536 | _ => 0
  propagation : fieldAt bytes 4 14 0 16 = match c.cable with | .valid f => f.propagation % 65536 | _ => 4900
  serial : (bytes.drop 12).take 16 = match c.cable with
    | .valid f => (f.serial ++ List.replicate 16 0).take 16
    | _ => List.replicate 16 0
  chassis : fieldAt bytes 4 32 0 16 = match c.peer with | some i => i.chassis.toNat | none => c.relayDrops % 65536
  peerPort : fieldAt bytes 4 34 0 5 = match c.peer with | some i => i.port.toNat % 32 | none => 0
  peerHops : fieldAt bytes 4 34 5 2 = match c.peer with | some i => i.hops.toNat % 4 | none => 0
  resultsPresent : fieldAt bytes 4 34 7 1 = bitNat c.results.isSome
  peerEpoch : fieldAt bytes 4 35 0 8 = match c.peer with | some i => i.epoch.toNat | none => 0
  measured : fieldAt bytes 4 36 0 12 = c.length.getD 0 % 4096
  peerLanes : fieldAt bytes 4 37 4 2 = match c.peer with | some i => (i.lanes - 1) % 4 | none => 0
  scanPass : fieldAt bytes 4 38 0 16 = c.scanPass % 65536
  deskew : ∀ i : LaneId, fieldAt bytes 4 (40 + i.val) 0 7 =
    match c.results with
    | some r => (match r.deskew with | some d => d[i] % 128 | none => 0)
    | none => 0
  live : ∀ i : LaneId, fieldAt bytes 4 (40 + i.val) 7 1 = match c.results with | some r => bitNat r.live[i] | none => 0
  errors : ∀ i : LaneId, fieldAt bytes 4 (44 + 2 * i.val) 0 16 = match c.results with | some r => r.errors[i] % 65536 | none => 0
  nbe : fieldAt bytes 4 52 0 16 = c.nbe % 65536
  fbe : fieldAt bytes 4 54 0 16 = c.fbe % 65536
  lapseCount : fieldAt bytes 4 56 0 16 = c.lapseCount % 65536
  windowCount : fieldAt bytes 4 58 0 16 = c.windowCount % 65536
  stamp : fieldAt bytes 4 60 0 32 = c.stamp.toNat

/-- The 60 bytes from byte 4 on of the page header show the block (R190). -/
structure HeaderShows (s : State) (bytes : List Byte) : Prop where
  length : bytes.length = 60
  run : fieldAt bytes 4 4 0 1 = bitNat s.run
  inEffect : fieldAt bytes 4 4 1 1 = bitNat s.plan.inEffect
  epoch : fieldAt bytes 4 5 0 8 = s.plan.epoch.toNat
  chassis : fieldAt bytes 4 6 0 16 = s.plan.chassis.toNat
  anchor : fieldAt bytes 4 8 0 64 = s.anchor.toNat
  walker : fieldAt bytes 4 16 0 8 = s.walker.code
  cause : fieldAt bytes 4 17 0 8 = s.lastWorkFault.code
  identities : fieldAt bytes 4 18 0 8 = s.reader.queue.length % 256
  waiting : fieldAt bytes 4 19 0 8 = s.pool.queue.length % 256
  presence : fieldAt bytes 4 20 0 32 = s.debounced.toNat
  snapshot : fieldAt bytes 4 24 0 32 = s.watch.snapshot.toNat
  scan : fieldAt bytes 4 28 0 8 = s.scan.state.code
  pointer : fieldAt bytes 4 29 0 8 = s.scan.pointer % 256
  overruns : fieldAt bytes 4 30 0 8 = s.scan.overruns % 256
  passes : fieldAt bytes 4 32 0 16 = s.scan.passes % 65536
  owners : ∀ e : ExerciserId, fieldAt bytes 4 (34 + e.val) 0 8 =
    match s.pool.owners[e] with | some g => g.port.val | none => 255

/-- A value or the code for none, in 16 bits. -/
def orCode (absent : Nat) : Option Nat → Nat
  | some v => v % 65536
  | none => absent

/-- The marks of a job that are set: measured, delivered, record, from bit 0 on; 0 with no job. -/
def marksOf (j : Option Job) : Nat :=
  match j with
  | some j => bitNat j.measured + 2 * bitNat j.delivered + 4 * bitNat j.record
  | none => 0

/-- Bytes 64 to 127 of a port report (R193), with what it leaves open by logs 25, 36 and 37. -/
structure ReportShows (s : State) (p : PortId) (bytes : List Byte) : Prop where
  length : bytes.length = 64
  effectiveType : fieldAt bytes 64 64 0 8 = (s.entry p).effective.code
  peerPort : fieldAt bytes 64 65 0 8 = (s.entry p).peerPort.toNat
  peerChassis : fieldAt bytes 64 66 0 16 = (s.entry p).peerChassis.toNat
  hops : fieldAt bytes 64 68 0 2 = (s.entry p).hops.toNat
  media : fieldAt bytes 64 68 2 3 = match (s.entry p).media with | some m => m.code | none => 0
  policy : fieldAt bytes 64 68 5 1 = match (s.entry p).policy with | .auto => 0 | .manual => 1
  retryPolicy : fieldAt bytes 64 69 0 2 = (s.entry p).retryPolicy.code
  retryClass : fieldAt bytes 64 69 2 2 = (s.entry p).retryClass.toNat
  nominal : fieldAt bytes 64 70 0 16 = (s.entry p).nominal % 65536
  tolerance : fieldAt bytes 64 72 0 8 = (s.entry p).tolerance % 256
  trim : fieldAt bytes 64 73 0 8 = (s.entry p).trim % 256
  lanes : fieldAt bytes 64 74 0 8 = (s.entry p).lanes % 256
  soakUnits : fieldAt bytes 64 75 0 8 = (s.entry p).soakUnits % 256
  skewLimit : fieldAt bytes 64 76 0 8 = (s.entry p).skewLimit % 256
  threshold : fieldAt bytes 64 77 0 8 = (s.entry p).threshold % 256
  allowance : fieldAt bytes 64 78 0 16 = (s.entry p).allowance % 65536
  declared : fieldAt bytes 64 80 0 8 = (s.entry p).declared.code
  broken : fieldAt bytes 64 81 0 8 = match (s.entry p).broken with | none => 0 | some .field => 1 | some .pairing => 2
  raw : fieldAt bytes 64 82 0 1 = bitNat (maskHas s.raw p)
  offResult : fieldAt bytes 64 82 1 2 = (s.port p).offResult.code
  activity : fieldAt bytes 64 82 3 1 = bitNat (s.port p).offActivity
  farOpen : fieldAt bytes 64 82 4 1 = bitNat (s.port p).farOpenCause
  lowSignal : fieldAt bytes 64 82 5 1 = bitNat (s.port p).onState.low
  missing : fieldAt bytes 64 82 6 1 = if s.portState p = .vacant ∧ (s.entry p).effective = .planned then 1 else 0
  degraded : fieldAt bytes 64 82 7 1 = bitNat (s.port p).degradedCause
  below : fieldAt bytes 64 83 0 4 = (s.port p).onState.below % 16
  above : fieldAt bytes 64 83 4 4 = (s.port p).onState.above % 16
  lock : fieldAt bytes 64 84 0 2 = (s.port p).framer.lock.code
  effective : fieldAt bytes 64 84 2 1 = bitNat (s.port p).framer.effective.isSome
  notReady : fieldAt bytes 64 84 3 2 = (s.port p).notReadyRun % 4
  follow : fieldAt bytes 64 84 5 2 = (s.port p).followRun % 4
  word : ∀ i : Fin 8, fieldAt bytes 64 85 i.val 1 = match (s.port p).framer.effective with | some w => bitNat (w.getMsbD i.val) | none => 0
  sender : fieldAt bytes 64 86 0 2 = (s.port p).channel.sender.code
  receiver : fieldAt bytes 64 86 2 1 = match (s.port p).channel.receiver with | .header => 0 | .body => 1
  k : fieldAt bytes 64 86 3 1 = bitNat (s.port p).channel.k
  j : fieldAt bytes 64 86 4 1 = bitNat (s.port p).channel.j
  attempt : fieldAt bytes 64 86 5 2 = ((s.port p).channel.attempt - 1) % 4
  sending : fieldAt bytes 64 87 0 2 = messageTypeCode (s.port p).channel.sending
  byteIndex : fieldAt bytes 64 87 2 4 = (s.port p).channel.byteIndex % 16
  queued : fieldAt bytes 64 88 0 2 = messageTypeCode (s.port p).channel.queue[0]?
  queuedSecond : fieldAt bytes 64 88 2 2 = messageTypeCode (s.port p).channel.queue[1]?
  phase : fieldAt bytes 64 88 4 2 = (s.port p).meter.phase.code
  bias : fieldAt bytes 64 88 6 1 = bitNat (s.port p).meter.biasMinus
  recordPresent : fieldAt bytes 64 88 7 1 = bitNat (s.port p).meter.peerRecord.isSome
  measureJob : fieldAt bytes 64 89 0 1 = bitNat (s.port p).meter.measureJob.isSome
  legJob : fieldAt bytes 64 89 1 1 = bitNat (s.port p).meter.legJob.isSome
  scanJob : fieldAt bytes 64 89 2 1 = bitNat (s.port p).meter.scanJob.isSome
  answerJob : fieldAt bytes 64 89 3 1 = bitNat (s.port p).meter.answerJob.isSome
  pairNumber : fieldAt bytes 64 89 4 2 = (s.port p).meter.pairNumber.getD 0 % 4
  lp : fieldAt bytes 64 90 0 16 = orCode 0xFFFF (s.port p).meter.lp
  lm : fieldAt bytes 64 92 0 16 = orCode 0xFFFF (s.port p).meter.lm
  spread : (fieldAt bytes 64 94 0 16 : Int) = match (s.port p).meter.spread with | some d => d % 65536 | none => 0x8000
  ownL2 : fieldAt bytes 64 96 0 16 = orCode 0xFFFF (s.port p).meter.ownL2
  recordL2 : fieldAt bytes 64 98 0 16 = match (s.port p).meter.peerRecord with | some r => r.l2 % 65536 | none => 0
  recordTrim : fieldAt bytes 64 100 0 8 = match (s.port p).meter.peerRecord with | some r => r.trim % 256 | none => 0
  recordUnstable : fieldAt bytes 64 101 0 1 = match (s.port p).meter.peerRecord with | some r => bitNat r.unstable | none => 0
  recordAnswer : fieldAt bytes 64 101 1 1 = match (s.port p).meter.peerRecord with | some r => bitNat r.answer | none => 0
  lastR2 : fieldAt bytes 64 102 0 16 = orCode 0xFFFF (s.port p).meter.lastR2
  lastN2 : fieldAt bytes 64 104 0 16 = orCode 0xFFFF (s.port p).meter.lastN2
  scanWait : fieldAt bytes 64 106 0 16 = (s.port p).meter.scanWait % 65536
  replyWait : (∀ c, s.scan.inFlight = some c → c.port = p → c.kind = .peer →
      fieldAt bytes 64 108 0 16 = c.replyWait % 65536) ∧
    ((∀ c, s.scan.inFlight = some c → c.port = p → c.kind ≠ .peer) → fieldAt bytes 64 108 0 16 = 0)
  relayDrops : fieldAt bytes 64 110 0 16 = (s.ctx p).relayDrops % 65536
  measureMarks : fieldAt bytes 64 112 0 3 = marksOf (s.port p).meter.measureJob
  legMarks : fieldAt bytes 64 112 3 3 = marksOf (s.port p).meter.legJob
  scanMarks : fieldAt bytes 64 112 6 2 =
    match (s.port p).meter.scanJob with | some j => bitNat j.measured + 2 * bitNat j.record | none => 0
  grant : ∀ g, s.grantOf p = some g →
    fieldAt bytes 64 113 0 2 = g.phase.code ∧ fieldAt bytes 64 113 2 2 = (g.lanes - 1) % 4 ∧
      fieldAt bytes 64 113 4 2 = g.peerStop % 4 ∧
      (∀ i : LaneId, fieldAt bytes 64 114 (2 * i.val) 2 = g.checkers[i].state.code) ∧ fieldAt bytes 64 115 0 8 = g.units % 256
  noGrant : s.grantOf p = none → fieldAt bytes 64 113 0 24 = 0
  retryLength : fieldAt bytes 64 116 0 32 = (s.port p).timers.retryLength.getD 0 % 2 ^ 32
  retryRemaining : fieldAt bytes 64 120 0 32 = (s.port p).timers.retryRemaining.getD 0 % 2 ^ 32
  rest : fieldAt bytes 64 124 0 32 = 0

/-! ### Orders and plans -/

/-- A raw entry as it is held, and its clamps (R35, R36, R188), before the pairing check. -/
structure EntryRead (raw : BitVec 128) (e : Entry) (clamps : Nat) : Prop where
  declared : e.declared =
    if (raw.extractLsb' 0 8).toNat = 1 then .planned else if (raw.extractLsb' 0 8).toNat = 2 then .relay else .unplanned
  broken : e.broken =
    if (raw.extractLsb' 0 8).toNat > 2 ∨ (raw.extractLsb' 34 3).toNat > 3 ∨ (raw.extractLsb' 40 2).toNat = 3 ∨
        e.declared ≠ .unplanned ∧ (raw.extractLsb' 8 8).toNat > 23 ∨
        e.declared = .planned ∧ ((raw.extractLsb' 16 16).toNat = 0 ∨ (raw.extractLsb' 16 16).toNat = 65535) then some .field
    else none
  peerPort : e.peerPort.toNat =
    if e.declared ≠ .unplanned ∧ (raw.extractLsb' 8 8).toNat > 23 then 0 else (raw.extractLsb' 8 8).toNat
  peerChassis : e.peerChassis.toNat =
    if e.declared = .planned ∧ (raw.extractLsb' 16 16).toNat = 65535 then 0 else (raw.extractLsb' 16 16).toNat
  hops : e.hops = raw.extractLsb' 32 2
  media : e.media =
    match (raw.extractLsb' 34 3).toNat with | 1 => some .copper | 2 => some .active | 3 => some .optical | _ => none
  policy : e.policy = if raw.getLsbD 37 then .manual else .auto
  retryPolicy : e.retryPolicy = match (raw.extractLsb' 40 2).toNat with | 1 => .unlimited | 2 => .noRetry | _ => .limited
  retryClass : e.retryClass = raw.extractLsb' 42 2
  nominal : e.nominal = if (raw.extractLsb' 48 16).toNat > 4095 then 4095 else (raw.extractLsb' 48 16).toNat
  tolerance : e.tolerance = (raw.extractLsb' 64 8).toNat
  trim : e.trim = (raw.extractLsb' 72 8).toNat
  lanes : e.lanes =
    if (raw.extractLsb' 80 8).toNat = 0 then 1 else if (raw.extractLsb' 80 8).toNat > 4 then 4 else (raw.extractLsb' 80 8).toNat
  soakUnits : e.soakUnits = if (raw.extractLsb' 88 8).toNat = 0 then 1 else (raw.extractLsb' 88 8).toNat
  skewLimit : e.skewLimit = if (raw.extractLsb' 96 8).toNat > 127 then 127 else (raw.extractLsb' 96 8).toNat
  threshold : e.threshold = (raw.extractLsb' 104 8).toNat
  allowance : e.allowance = (raw.extractLsb' 112 16).toNat
  clamps : clamps =
    (if (raw.extractLsb' 48 16).toNat > 4095 then 1 else 0) +
      (if (raw.extractLsb' 80 8).toNat = 0 ∨ (raw.extractLsb' 80 8).toNat > 4 then 1 else 0) +
      (if (raw.extractLsb' 88 8).toNat = 0 then 1 else 0) + (if (raw.extractLsb' 96 8).toNat > 127 then 1 else 0)

/-- The command by which masked ports take a mask order. -/
def OrderKind.command : OrderKind → Option (PortMask → Instr)
  | .restart => some .restart
  | .hold => some .hold
  | .release => some .release
  | .delatch => some .delatch
  | .clearRetries => some .clearRetries
  | .clearFlags => some .clearFlags
  | .handover => some .handover
  | .withdraw => some .withdraw
  | _ => none

/-- The one command by which an order that takes no time is taken at once, a mask order by every port that waits. -/
def OrderKind.atOnce (k : OrderKind) : Option Instr :=
  match k with
  | .planPatch => some .planPatch
  | .watchSetup => some .watchSetup
  | .scanStart => some .scanStart
  | .scanStop => some .scanStop
  | k => k.command.map fun c => c 0xFFFFFF

/-- An order in progress that its block has not yet taken. -/
def State.handed (s : State) (o : Order) : Prop := s.walker.order? = some o ∧ o.stage = .handed

/-- An order in progress that its block has taken and that takes time. -/
def State.working (s : State) (o : Order) : Prop := s.walker.order? = some o ∧ o.stage = .working

/-- Order `o` has completed (R172): into its record the outcome byte, the applied mask, the report bytes where the kind has them, then
DONE, with interrupts around them; ORDER_DONE where the record asks for it; the walker re-reads from ACTING and stops from STOPPING
(R169, R178). -/
structure OrderDone (o : Order) (outcome : Byte) (applied : PortMask) (report : Option (Byte × Byte)) (s t : State) :
    Prop where
  anchor : t.anchor = s.anchor
  issued : ∃ n m, t.issued = s.issued ++ List.replicate n (.interrupt s.msi.address s.msi.data) ++
    ([.write (o.address + 10) [outcome], .write (o.address + 20) (leBytes 4 applied.toNat)] ++
      (match report with
        | some (x, y) => [.write (o.address + 56) [x, y]]
        | none => []) ++ [.write (o.address + 9) [2]]) ++ List.replicate m (.interrupt s.msi.address s.msi.data)
  summary : o.notify = true → t.summary.getLsbD 0 = true
  acting : ∀ d, s.walker = .acting d → t.walker = if s.anchor = 0 then .idle 0 else .fetching .link false
  stopping : ∀ d, s.walker = .stopping d → t.walker = .stopped

/-- The RELAY entries of ports `p` and `q` name each other (R37). -/
def paired (es : PortId → Entry) (p q : PortId) : Prop :=
  q ≠ p ∧ (es p).peerPort.toNat = q.val ∧ (es q).declared = .relay ∧ (es q).broken ≠ some .field ∧
    (es q).peerPort.toNat = p.val

/-- `e` is the entry of port `p` after the pairing check over the entries `es` (R36, R37). -/
def AfterPairing (es : PortId → Entry) (p : PortId) (e : Entry) : Prop :=
  ((es p).declared ≠ .relay ∨ (es p).broken = some .field → e = es p) ∧
    ((es p).declared = .relay → (es p).broken ≠ some .field →
      ((∃ q, paired es p q) → e = { es p with broken := none }) ∧
        ((¬ ∃ q, paired es p q) → e = { es p with broken := some .pairing }))

/-- The taken ports of a command that names `ports`, out of those that wait (R174): RESTART and RELEASE are taken in ascending order,
so with a port go the waiting ports below it (log 7). -/
def Order.takes (o : Order) (ports : PortMask) (p : PortId) : Prop :=
  maskHas o.waiting p = true ∧
    (if o.kind = .restart ∨ o.kind = .release then ∃ q, p ≤ q ∧ maskHas o.waiting q = true ∧ maskHas ports q = true
     else maskHas ports p = true)

/-- The states in which a mask order is applied, as the table of R175 gives them. -/
def OrderKind.appliesIn (k : OrderKind) (st : PortState) : Prop :=
  match k with
  | .restart => st ≠ .dormant ∧ st ≠ .held
  | .hold => st ≠ .held
  | .release => st = .held
  | .delatch => st = .latched
  | .handover => st = .qualified
  | .withdraw => st = .qualified ∨ st = .handed
  | _ => True

/-! ### Scans and memory errors -/

/-- The result that a check of kind `k` ends with in the event that hands it to port `p`, none where it stays in flight (R160 to
R164). -/
def State.checkResult (s : State) (p : PortId) (k : ScanKind) : Option ScanResult :=
  let st := s.portState p
  match k with
  | .line =>
    if st.transmits then some (if (s.port p).onState.low then .low else .good)
    else if st = .seated ∨ st = .awaitFar ∨ st = .retryWait ∨ st = .latched then none
    else some .notApplicable
  | .peer =>
    if (st = .qualified ∨ st = .handed ∨ st = .miswired) ∧ (s.entry p).effective ≠ .relay then
      (if (s.port p).framer.lock = .locked then none else some .abandoned)
    else some .notApplicable
  | .delay =>
    if st = .qualified ∨ st = .handed ∨ st = .miswired ∨ st = .relaying then
      (if (s.port p).framer.lock = .locked then none else some .abandoned)
    else some .notApplicable
  | .counts => if st.transmits then some .copied else some .notApplicable
  | .expect =>
    if st = .vacant then some (if (s.entry p).effective = .planned then .absentPlanned else .absentUnplanned)
    else some .notApplicable

/-- The states that lock lost takes a port out of (R13 to R15, R24, R25). -/
def PortState.leavesOnLockLoss (st : PortState) : Bool :=
  st == .greet || st == .measure || st == .exercise || st == .relaying || st == .miswired

/-- The check `c`, in flight on its port, has ended with result `r` (R159). -/
structure CheckEnded (c : InFlight) (r : ScanResult) (s t : State) : Prop where
  ended : s.scan.inFlight = some c ∧ t.scan.inFlight = none
  kind : (t.ctx c.port).lastScanKind = some c.kind
  result : (t.ctx c.port).scanResult = r
  pass : (t.ctx c.port).scanPass = c.pass
  dirty : maskHas t.page.dirty c.port = true

/-- What the Scheduler does as its check in flight ends, and nothing else (R154, R157, R158): nothing in IDLE; with no setup under way the
pointer advances, or at the last entry a pass completes; a scan in DRAINING with post-stop count 0 stops. -/
structure ScanGoesOn (s t : State) : Prop where
  idle : s.scan.state = .idle → t.scan = { s.scan with inFlight := none }
  walks : s.scan.state ≠ .idle → s.scan.setup = none → s.scan.pointer + 1 < s.scan.list.length →
    t.scan = if s.scan.state = .draining ∧ s.scan.postStop = 0 then
        { s.scan with inFlight := none, state := .idle, pacerOn := false, elapsed := 0, pointer := 0 }
      else { s.scan with inFlight := none, pointer := s.scan.pointer + 1 }
  completes : s.scan.state ≠ .idle → s.scan.setup = none → s.scan.list.length ≤ s.scan.pointer + 1 →
    t.scan.passes = (if s.scan.passes < 65535 then s.scan.passes + 1 else s.scan.passes) ∧ t.scan.pointer = 0 ∧
      t.summary.getLsbD 4 = true ∧
      (s.scan.mode = .singlePass ∨ s.scan.stop = .passes t.scan.passes ∨ s.scan.state = .draining ∧ s.scan.postStop = 0 →
        t.scan.state = .idle ∧ t.scan.pacerOn = false) ∧
      (s.scan.mode = .continuous → s.scan.stop ≠ .passes t.scan.passes → ¬ (s.scan.state = .draining ∧ s.scan.postStop = 0) →
        t.scan.state = s.scan.state ∧ t.scan.pacerOn = s.scan.pacerOn)

/-- The first check of a scan has been handed to its port in the event of the start (R155, R156): it is in flight, or it has ended and
is recorded. -/
def FirstCheck (p : PortId) (k : ScanKind) (s t : State) : Prop :=
  t.scan.checkNo = s.scan.checkNo + 1 ∧
    (t.scan.inFlight =
        some { index := 0, port := p, kind := k, pass := 1, number := s.scan.checkNo + 1, replyWait := 0 } ∨
      t.scan.inFlight = none ∧ (t.ctx p).lastScanKind = some k ∧ (t.ctx p).scanPass = 1)

/-- An entry has been taken and is over (R156, R157): the pointer advances, or a pass completes with SUMMARY.SCAN_PASS; in DRAINING
the post-stop count is one lower, and at 0 the scan stops; a pass that stops the scan before leaves the count where it is (log 52). -/
structure EntryTaken (s t : State) : Prop where
  list : t.scan.list = s.scan.list
  postStop : t.scan.postStop = if s.scan.state = .draining then s.scan.postStop - 1 else s.scan.postStop
  walks : s.scan.pointer + 1 < s.scan.list.length →
    t.scan.passes = s.scan.passes ∧
      (s.scan.state = .running → t.scan.state = .running ∧ t.scan.pointer = s.scan.pointer + 1) ∧
      (s.scan.state = .draining → s.scan.postStop > 1 →
        t.scan.state = .draining ∧ t.scan.pointer = s.scan.pointer + 1) ∧
      (s.scan.state = .draining → s.scan.postStop = 1 → t.scan.state = .idle ∧ t.scan.pointer = 0)
  completes : s.scan.list.length = s.scan.pointer + 1 →
    t.scan.passes = (if s.scan.passes < 65535 then s.scan.passes + 1 else s.scan.passes) ∧ t.scan.pointer = 0 ∧
      t.summary.getLsbD 4 = true ∧ (s.scan.mode = .singlePass → t.scan.state = .idle ∧ t.scan.pacerOn = false) ∧
      (s.scan.mode = .continuous → s.scan.stop = .passes t.scan.passes → t.scan.state = .idle ∧ t.scan.pacerOn = false) ∧
      (s.scan.mode = .continuous → s.scan.stop ≠ .passes t.scan.passes →
        s.scan.state = .running ∨ s.scan.postStop > 1 → t.scan.state = s.scan.state ∧ t.scan.pacerOn = s.scan.pacerOn) ∧
      (s.scan.mode = .continuous → s.scan.state = .draining → s.scan.postStop = 1 → t.scan.state = .idle)

/-- A scan has started on its list (R155 to R157): the counts at 0 and the pacer running with the whole period ahead, unless the entry
taken by the start itself ended a scan of one entry. -/
structure ScanBegun (s t : State) : Prop where
  keeps : t.scan.list = s.scan.list ∧ t.scan.mode = s.scan.mode ∧ t.scan.start = s.scan.start ∧ t.scan.stop = s.scan.stop ∧
    t.scan.period = s.scan.period
  counts : t.scan.overruns = 0 ∧ t.scan.postStop = 0
  waits : t.scan.inFlight.isSome = true →
    t.scan.state = .running ∧ t.scan.pacerOn = true ∧ t.scan.elapsed = 0 ∧ t.scan.passes = 0 ∧ t.scan.pointer = 0
  walks : t.scan.inFlight = none → 1 < s.scan.list.length →
    t.scan.state = .running ∧ t.scan.pacerOn = true ∧ t.scan.elapsed = 0 ∧ t.scan.passes = 0 ∧ t.scan.pointer = 1
  ends : t.scan.inFlight = none → s.scan.list.length = 1 → t.scan.passes = 1 ∧ t.scan.pointer = 0 ∧
    (s.scan.mode = .singlePass ∨ s.scan.stop = .passes 1 → t.scan.state = .idle ∧ t.scan.pacerOn = false) ∧
    (s.scan.mode = .continuous → s.scan.stop ≠ .passes 1 → t.scan.state = .running ∧ t.scan.pacerOn = true)

/-- An access of the Work Area that may end in an error (R176): a read under way, the TAKEN write under way, the writes of an order's own
record, and every write issued since cold reset last stopped the accesses: it is known by the state byte of its record, the 128 bytes of a
report, the 60 bytes of fields of a page item. -/
def AccessUnderWay (s : State) : Access → Prop
  | .linkRead => ∃ d, s.walker = .fetching .link d
  | .recordRead => ∃ r d, s.walker = .fetching (.record r) d
  | .takenWrite => ∃ r x d, s.walker = .fetching (.take r x) d
  | .recordWrite r => (∃ o, s.walker.order? = some o ∧ o.address = r) ∨
      ∃ b : Byte, Issued.write (r + 9) [b] ∈ s.issued.drop s.accessesFrom
  | .planRead => s.walker.order? ≠ none ∧ s.plan.load ≠ none
  | .listRead => s.walker.order? ≠ none ∧ ∃ x, s.scan.setup = some x ∧ x.entries.length < x.count
  | .reportWrite => (∃ o target p bytes, s.walker.order? = some o ∧ o.stage = .reporting target p bytes) ∨
      ∃ x bytes, Issued.write x bytes ∈ s.issued.drop s.accessesFrom ∧ bytes.length = 128
  | .pageWrite => s.page.busy ≠ none ∨ ∃ x bytes, Issued.write x bytes ∈ s.issued.drop s.accessesFrom ∧ bytes.length = 60

/-- The block after a memory access error (R176), beside what becomes of an order in progress. -/
structure MemoryHalted (s t : State) : Prop where
  walker : t.walker = .halted
  cause : t.lastWorkFault = .memory
  summary : t.summary.getLsbD 5 = true
  anchor : t.anchor = s.anchor
  page : t.page = { s.page with stopped := true, busy := none, dirty := 0xFFFFFF, headerMark := true }

/-! ### Invariants -/

/-- The HANDOVER line is asserted in HANDED and in no other state (R18). -/
def HandoverInv (s : State) : Prop := ∀ p, (s.port p).handover = true ↔ s.portState p = .handed

/-- READY is 0 outside QUALIFIED and HANDED (R4, R16). -/
def ReadyInv (s : State) : Prop := ∀ p, (s.port p).ready = true → s.portState p = .qualified ∨ s.portState p = .handed

/-- The transmitter is off in every state that does not transmit (R3). -/
def TransmitterInv (s : State) : Prop := ∀ p, (s.port p).framer.tx.isSome = true → (s.portState p).transmits = true

/-- A port's lane selector code names an exerciser exactly when the port holds it (R121, R124). -/
def SelectorInv (s : State) : Prop := ∀ p, (s.port p).selectorCode = (s.ctx p).heldExerciser

/-- Bits 0 to 5 of an address are 0. -/
def Aligned (a : Address) : Prop := a.extractLsb' 0 6 = 0

/-- The record that a walker reads or takes, or whose order is in progress. -/
def Walker.recordAt : Walker → Option Address
  | .fetching (.record a) _ => some a
  | .fetching (.take a _) _ => some a
  | .acting o => some o.address
  | .stopping o => some o.address
  | _ => none

/-- The anchor, the page base and the walker's record are multiples of 64 (R166, R170). -/
def AlignedInv (s : State) : Prop :=
  Aligned s.anchor ∧ Aligned s.pageBase ∧ s.pageLow.extractLsb' 0 6 = 0 ∧ ∀ a, s.walker.recordAt = some a → Aligned a

end Sys2Proof.Machine
end

