-- ==== Sys2Proof/Certificates/Slice0/Obligations.lean ====
section
/-! DEFINITION. The statements about the block. -/

section Statements

open Sys2Proof Sys2Proof.Machine


/-! ### The queue, reset and the register window -/

/-- The command at the front of the queue is executed with the queue's rest; with nothing waiting the block idles (log 1). -/
def Obligations.StepRunsFront : Prop :=
  (∀ (c : Instr) (rest : List Instr) (s : State),
    step { s with pending := c :: rest } = exec c { s with pending := rest }) ∧
  ∀ s : State, s.pending = [] → step s = .next s

/-- What cold reset leaves, item by item, where a rule states it (R1, R5, R34, R51, R54, R61, R65, R66, R71, R86, R107, R120, R124, R139,
R146, R152, R166, R168, R180, R182); COLD_RESET puts every block there. The commands waiting, what was issued and what was driven on the
identity bus before, what the external selector last took and the free-value counter are outside it (log 30); every access in progress is
stopped (R178).
The model's choices it rests on: log 5 (the interrupt capability), log 26 (items without a stated reset value), log 29 (the load being
shifted out as reset ends), log 30. -/
def Obligations.ColdReset : Prop :=
  (State.reset.run = false ∧ State.reset.irqEn = false ∧ State.reset.anchor = 0 ∧ State.reset.pageLow = 0 ∧
   State.reset.pageBase = 0 ∧ State.reset.summary = 0 ∧ State.reset.summaryEnable = 0 ∧ State.reset.ms = 0 ∧
   State.reset.walker = .stopped ∧ State.reset.lastWorkFault = .none ∧
   State.reset.page.dirty = 0xFFFFFF ∧ State.reset.page.headerMark = true ∧ State.reset.page.stopped = false ∧
   State.reset.page.lastPort = none ∧ State.reset.page.lastWasHeader = false ∧ State.reset.page.headerVersion = 0 ∧
   (∀ p : PortId, State.reset.page.versions[p] = 0) ∧ State.reset.page.busy = none ∧
   State.reset.plan.inEffect = false ∧ State.reset.plan.chassis = 0 ∧ State.reset.plan.epoch = 0 ∧ State.reset.plan.load = none ∧
   State.reset.debounced = 0 ∧ State.reset.raw = 0 ∧ State.reset.samplePeriod = 1 ∧ State.reset.sampleElapsed = 0 ∧
   State.reset.watch = { mode := .off, ignore := 0, compare := 0, snapshot := 0, held := false } ∧
   State.reset.reader = { phase := .idle, service := none, queue := [] } ∧
   State.reset.pool.queue = [] ∧ State.reset.pool.requests = [] ∧ (∀ e : ExerciserId, State.reset.pool.owners[e] = none) ∧
   (∃ codes : Vector (Option ExerciserId) 24, State.reset.selector.loading = some codes ∧ ∀ p : PortId, codes[p] = none) ∧
   State.reset.scan.state = .idle ∧ State.reset.scan.list = [] ∧ State.reset.scan.pointer = 0 ∧
   State.reset.scan.mode = .singlePass ∧ State.reset.scan.start = .order ∧ State.reset.scan.stop = .order ∧
   State.reset.scan.period = 1 ∧ State.reset.scan.pacerOn = false ∧ State.reset.scan.passes = 0 ∧
   State.reset.scan.overruns = 0 ∧ State.reset.scan.postStop = 0 ∧ State.reset.scan.inFlight = none ∧
   State.reset.scan.setup = none) ∧
  (∀ p : PortId, State.reset.entry p =
    { declared := .unplanned, broken := none, peerPort := 0, peerChassis := 0, hops := 0, media := none, policy := .manual,
      retryPolicy := .limited, retryClass := 0, nominal := 0, tolerance := 0, trim := 0, lanes := 1, soakUnits := 1,
      skewLimit := 0, threshold := 0, allowance := 0 }) ∧
  (∀ p : PortId, State.reset.ctx p =
    { state := .dormant, lastVerdict := .none, verdictMask := ⟨false, false, false, false⟩, miswiredStage := .none,
      lastFault := .none, retryCounter := 0, retryFull := false, flags := 0, cable := .none, peer := none, length := none,
      armed := false, inhibited := false, stallCount := 0, heldExerciser := none, results := none, nbe := 0, fbe := 0,
      lapseCount := 0, relayDrops := 0, windowCount := 0, lastScanKind := none, scanResult := .none, scanPass := 0,
      stamp := 0 }) ∧
  (∀ p : PortId,
    let x := State.reset.port p
    x.notReadyRun = 0 ∧ x.followRun = 0 ∧ x.handover = false ∧ x.selectorCode = none ∧ x.offResult = .none ∧
    x.farOpenCause = false ∧ x.degradedCause = false ∧ x.onState.low = false ∧ x.notices = [] ∧
    x.timers = { lockSearch := none, greet := none, peerDelay := none, peerStart := none, lapse := none, blockWindow := none,
                 retryLength := none, retryRemaining := none } ∧
    x.framer.tx = none ∧ x.framer.fbeRequest = false ∧ x.framer.lock = .off ∧ x.framer.rxIndex = none ∧
    x.framer.erroredRun = 0 ∧ x.framer.rxHistory = none ∧ x.framer.rxCrc = none ∧ x.framer.rxHeldCrc = none ∧
    x.framer.assembled = none ∧ x.framer.pendingWord = none ∧ x.framer.effective = none ∧
    x.channel.sender = .idle ∧ x.channel.sending = none ∧ x.channel.attempt = 1 ∧ x.channel.byteIndex = 0 ∧
    x.channel.offeredS = false ∧ x.channel.lastTakeS = false ∧ x.channel.idleRun = 0 ∧ x.channel.byteTimer = 0 ∧
    x.channel.k = false ∧ x.channel.j = false ∧ x.channel.receiver = .header ∧ x.channel.received = [] ∧
    x.channel.remaining = 0 ∧ x.channel.lastFrame = none ∧ x.channel.rxIdleRun = 0 ∧ x.channel.queue = [] ∧
    x.meter.measureJob = none ∧ x.meter.legJob = none ∧ x.meter.scanJob = none ∧ x.meter.answerJob = none ∧
    x.meter.phase = .idle ∧ x.meter.pairNumber = none ∧ x.meter.biasMinus = false ∧ x.meter.lp = none ∧ x.meter.lm = none ∧
    x.meter.spread = none ∧ x.meter.ownL2 = none ∧ x.meter.peerRecord = none ∧ x.meter.lastR2 = none ∧
    x.meter.lastN2 = none ∧ x.meter.scanWait = 0) ∧
  ∀ s : State, exec .coldReset s =
    .next { State.reset with
      pending := s.pending, issued := s.issued, accessesFrom := s.issued.length, free := s.free, identityBus := s.identityBus,
      selector := { State.reset.selector with strobed := s.selector.strobed } }

/-- The register window (R166, R167, R180, R194). The command that a write is, by its offset and the bits of its word; ANCHOR writes are
taken while RUN is 0 alone; the low six bits of an address are held at 0; PAGE_LOW waits for PAGE_HIGH, which marks the whole page; the
actions, NUDGE and every unnamed bit read as 0 (R185); a write at an offset whose register has no behaviour on a write changes nothing (R185).
The model's choices it rests on: log 4, log 53 (an ANCHOR write that leaves the address as it was marks the header too). -/
def Obligations.RegisterWindow : Prop :=
  ((∀ (s : State) (high : Bool) (v : Word), s.run = true → exec (.anchorWrite high v) s = .next s) ∧
   (∀ (s : State) (v : Word), s.run = false →
     exec (.anchorWrite true v) s = .next { s with anchor := v ++ s.anchor.extractLsb' 0 32 }.markHeader) ∧
   (∀ (s : State) (v : Word), s.run = false →
     exec (.anchorWrite false v) s =
       .next { s with anchor := s.anchor.extractLsb' 32 32 ++ (v.extractLsb' 6 26 ++ 0#6) }.markHeader) ∧
   (∀ (s : State) (v : Word), exec (.pageLowWrite v) s = .next { s with pageLow := v.extractLsb' 6 26 ++ 0#6 }) ∧
   ∀ (s : State) (v : Word), exec (.pageHighWrite v) s = .next { s with pageBase := v ++ s.pageLow }.markWholePage) ∧
  (∀ s : State,
     s.readRegister 0x00 = some 0x00012440 ∧
     (∃ v, s.readRegister 0x04 = some v ∧ v.getLsbD 0 = s.run ∧ v.getLsbD 3 = s.irqEn ∧ v.extractLsb' 1 2 = 0 ∧
       v.extractLsb' 4 28 = 0) ∧
     s.readRegister 0x08 = some (s.anchor.extractLsb' 0 32) ∧ s.readRegister 0x0C = some (s.anchor.extractLsb' 32 32) ∧
     s.readRegister 0x10 = some s.pageLow ∧ s.readRegister 0x14 = some (s.pageBase.extractLsb' 32 32) ∧
     s.readRegister 0x18 = some 0 ∧
     (∃ v, s.readRegister 0x1C = some v ∧ v.extractLsb' 0 6 = s.summary ∧ v.extractLsb' 6 26 = 0) ∧
     ∃ v, s.readRegister 0x20 = some v ∧ v.extractLsb' 0 6 = s.summaryEnable ∧ v.extractLsb' 6 26 = 0) ∧
  (∀ (s : State) (offset : Nat) (v : Word), (Instr.registerWriteOther offset v).wellFormed = true →
    writeCommand offset v = .registerWriteOther offset v ∧ exec (.registerWriteOther offset v) s = .next s) ∧
  (∀ v : Word,
    writeCommand 0x08 v = .anchorWrite false v ∧ writeCommand 0x0C v = .anchorWrite true v ∧
    writeCommand 0x10 v = .pageLowWrite v ∧ writeCommand 0x14 v = .pageHighWrite v ∧ writeCommand 0x18 v = .nudge v ∧
    writeCommand 0x1C v = .summaryWrite v ∧ writeCommand 0x20 v = .summaryEnableWrite v ∧
    (v.getLsbD 2 = true → writeCommand 0x04 v = .warmReset (v.getLsbD 0) (v.getLsbD 1) (v.getLsbD 3)) ∧
    (v.getLsbD 2 = false → v.getLsbD 0 = true → writeCommand 0x04 v = .runSet (v.getLsbD 1) (v.getLsbD 3)) ∧
    (v.getLsbD 2 = false → v.getLsbD 0 = false → writeCommand 0x04 v = .runClear (v.getLsbD 1) (v.getLsbD 3))) ∧
  ∀ (s : State) (v : Word), ∃ t, exec (writeCommand 0x04 v) s = .next t ∧
    t.run = (v.getLsbD 0 && !v.getLsbD 2) ∧ t.irqEn = v.getLsbD 3

/-- The interrupts that a register write sends: one where SUMMARY and SUMMARY_ENABLE meet, IRQ_EN is 1 and the capability is enabled
(R183). A CONTROL write is one event whatever command names it; with RUN as it is and no RESUME it writes IRQ_EN (R167).
The model's choices it rests on: log 4. -/
def Obligations.InterruptTests : Prop :=
  ((∀ (s : State) (v : Word),
     let kept := s.summary &&& ~~~(v.extractLsb' 0 6)
     exec (.summaryWrite v) s = .next { s with
       summary := kept
       issued := s.issued ++
         (if kept &&& s.summaryEnable ≠ 0 ∧ s.irqEn = true ∧ s.msi.enabled = true then
           [.interrupt s.msi.address s.msi.data] else []) }) ∧
   ∀ (s : State) (v : Word),
     let enable := v.extractLsb' 0 6
     exec (.summaryEnableWrite v) s = .next { s with
       summaryEnable := enable
       issued := s.issued ++
         (if s.summary &&& enable ≠ 0 ∧ s.irqEn = true ∧ s.msi.enabled = true then
           [.interrupt s.msi.address s.msi.data] else []) }) ∧
  (∀ (s : State) (run resume b : Bool),
    exec (.irqEnWrite run resume b) s = (if run then exec (.runSet resume b) s else exec (.runClear resume b) s)) ∧
  (∀ (s : State) (run b : Bool),
    exec (.resume run b) s = (if run then exec (.runSet true b) s else exec (.runClear true b) s)) ∧
  ∀ (s : State) (b : Bool),
    exec (.irqEnWrite s.run false b) s = .next (s.irqWritten b)

/-- The millisecond count wraps at 2^32; the timers that count milliseconds advance with it, and nothing else changes (R2; log 3). -/
def Obligations.MillisecondCount : Prop :=
  ∀ s : State, ∃ t, exec .millisecondCountAdvance s = .next t ∧
    t.ms = s.ms + 1 ∧ t.sampleElapsed = s.sampleElapsed + 1 ∧
    (∀ n, s.walker = .idle n → t.walker = .idle (if n < 1 then n + 1 else n)) ∧
    ((∀ n, s.walker ≠ .idle n) → t.walker = s.walker) ∧
    t.scan = { s.scan with elapsed := if s.scan.pacerOn then s.scan.elapsed + 1 else s.scan.elapsed } ∧
    (∀ p, t.port p = { s.port p with timers := { (s.port p).timers with
      retryRemaining := (s.port p).timers.retryRemaining.map (· - 1) } }) ∧
    { t with ms := s.ms, sampleElapsed := s.sampleElapsed, walker := s.walker, scan := s.scan, ports := s.ports } = s

/-! ### RUN, RESUME and warm reset -/

/-- The walker on a write of 1 to RUN while it is 0 (R169, R178; the discarded fetch goes on, log 9). With RESUME 1 in the same write the
halted walker re-reads and the page writer starts again, and any other walker disregards it (R167, R177). The ports that enter SEATED join
the tail of the Identity Queue in ascending order, whatever state the other ports are in (R7, R65).
The model's choices it rests on: logs 4 and 9. -/
def Obligations.RunSet : Prop :=
  (∀ (s : State) (b : Bool), s.run = false →
    ∃ u, exec (.runSet false b) s = .next u ∧
      exec (.runSet true b) s = .next (if s.walker = .halted then { u with
          walker := if s.anchor = 0 then .idle 0 else .fetching .link false
          page := { u.page with stopped := false, dirty := 0xFFFFFF, headerMark := true } }
        else u)) ∧
  ∀ (s : State) (b : Bool), s.run = false →
    ∃ t, exec (.runSet false b) s = .next t ∧
      (∃ w, SameHost { s.irqWritten b with run := true, walker := w } t ∧
        (s.walker = .stopped → w = if s.anchor = 0 then .idle 0 else .fetching .link false) ∧
        (∀ o, s.walker = .stopping o → w = .acting o) ∧
        (s.walker ≠ .stopped → (∀ o, s.walker ≠ .stopping o) → w = s.walker)) ∧
      t.page.headerMark = true ∧
      (∀ p, s.portState p = .dormant → s.plan.inEffect = true →
        t.portState p = (if maskHas s.debounced p then .seated else .vacant) ∧ (t.ctx p).stamp = s.ms) ∧
      (∀ p, s.portState p ≠ .dormant ∨ s.plan.inEffect = false → SameButGrant (s.port p) (t.port p)) ∧
      (s.plan.inEffect = true →
        (∀ p, s.portState p = .dormant → p ∉ s.reader.queue ∧ ∀ v, s.reader.service = some v → v.port ≠ p) →
        t.reader.queue = s.reader.queue ++ allPorts.filter fun p => s.portState p == .dormant && maskHas s.debounced p)

/-- A write of 0 to RUN while it is 1: the walker (R170, R178; a TAKEN write goes on, log 9), every port outside HANDED released into
DORMANT, every HANDED port left as it is (R32). With RESUME 1 in the same write a halted walker is STOPPED and the page writer starts
again, and any other walker disregards it (R167, R177).
The model's choices it rests on: logs 4, 9 and 33. -/
def Obligations.RunClear : Prop :=
  (∀ (s : State) (b : Bool), s.run = true →
    ∃ u, exec (.runClear false b) s = .next u ∧
      exec (.runClear true b) s = .next (if s.walker = .halted then { u with
          walker := .stopped
          page := { u.page with stopped := false, dirty := 0xFFFFFF, headerMark := true } }
        else u)) ∧
  ∀ (s : State) (b : Bool), s.run = true →
    ∃ t, exec (.runClear false b) s = .next t ∧
      (∃ w, SameHost { s.irqWritten b with run := false, walker := w } t ∧
        (∀ n, s.walker = .idle n → w = .stopped) ∧
        (∀ d, s.walker = .fetching .link d → w = .fetching .link true) ∧
        (∀ a d, s.walker = .fetching (.record a) d → w = .fetching (.record a) true) ∧
        (∀ o, s.walker = .acting o → w = .stopping o) ∧
        (∀ a r d, s.walker = .fetching (.take a r) d → w = s.walker) ∧
        (s.walker = .halted → w = .halted)) ∧
      t.page.headerMark = true ∧
      (∀ p, s.portState p ≠ .handed →
        t.portState p = .dormant ∧ (t.port p).framer.tx = none ∧ (t.port p).handover = false ∧
        (t.ctx p).own = ((s.ctx p).entered .dormant s.ms).own) ∧
      ∀ p, s.portState p = .handed → SameButGrant (s.port p) (t.port p)

/-- RESUME (R177), with RUN written as it stands: in HALTED the walker re-reads or stops by RUN, the page writer starts again and the
whole page is marked; in any other walker state it is disregarded. Beside IRQ_EN nothing else changes. -/
def Obligations.Resume : Prop :=
  (∀ (s : State) (b : Bool), s.walker ≠ .halted → exec (.resume s.run b) s = .next (s.irqWritten b)) ∧
  ∀ (s : State) (b : Bool), s.walker = .halted →
    exec (.resume s.run b) s = .next { s.irqWritten b with
      walker := if s.run = false then .stopped else if s.anchor = 0 then .idle 0 else .fetching .link false
      page := { s.page with stopped := false, dirty := 0xFFFFFF, headerMark := true } }

/-- Warm reset, with any other field of the CONTROL write (R33, R39, R54, R65, R120, R152, R166, R178, R180). The Identity Queue is left empty
(it holds no HANDED port, R65); where the holders and waiters are as R121 and R123 say of every state, the exercisers are left free,
nothing waits, and every lane selector code is none. The write leaves SUMMARY 0, so it sends no interrupt, whatever IRQ_EN it holds (R183,
log 24).
The model's choices it rests on: logs 4, 10, 23 (the check number), 24, 33 and 46. -/
def Obligations.WarmReset : Prop :=
  ∀ (s : State) (run resume b : Bool),
    ∃ t, exec (.warmReset run resume b) s = .next t ∧
      t.run = false ∧ t.irqEn = b ∧ t.walker = .stopped ∧ t.lastWorkFault = .none ∧ t.summary = 0 ∧
      t.summaryEnable = s.summaryEnable ∧ t.anchor = s.anchor ∧ t.pageLow = s.pageLow ∧ t.pageBase = s.pageBase ∧
      t.watch = { s.watch with mode := .off, held := false } ∧
      t.plan = { s.plan with load := none } ∧ t.ms = s.ms ∧ t.debounced = s.debounced ∧ t.raw = s.raw ∧
      t.samplePeriod = s.samplePeriod ∧
      t.scan = { State.reset.scan with checkNo := s.scan.checkNo } ∧
      t.page = { s.page with stopped := false, dirty := 0xFFFFFF, headerMark := true } ∧
      t.issued = s.issued ∧
      (∀ p, s.portState p ≠ .handed →
        t.portState p = .dormant ∧ (t.port p).framer.tx = none ∧ (t.port p).handover = false ∧
        (t.ctx p).own = ((s.ctx p).entered .dormant s.ms).own) ∧
      (∀ p, s.portState p = .handed →
        SameButGrant (s.port p) { t.port p with meter := (s.port p).meter } ∧
        ((∀ c, s.scan.inFlight = some c → c.port ≠ p ∨ c.kind ≠ .delay) → SameButGrant (s.port p) (t.port p))) ∧
      ((∀ p ∈ s.reader.queue, s.portState p ≠ .handed) → t.reader.queue = []) ∧
      (PoolInv s → SelectorInv s →
        t.pool.queue = [] ∧ t.pool.requests = [] ∧ (∀ e : ExerciserId, t.pool.owners[e] = none) ∧
        ∀ p, (t.ctx p).heldExerciser = none ∧ (t.port p).selectorCode = none)

/-! ### Presence and the Watch -/

/-- The debounce (R52) and what a sample leaves of the rest; before a sample period has passed there is no sample (R51).
The model's choices it rests on: log 3. -/
def Obligations.PresenceDebounce : Prop :=
  ∀ (s : State) (raw first : PortMask) (windows : Vector (Option LineWindow) 24) (ripe : Bool),
    (s.sampleElapsed < s.samplePeriod → exec (.presenceSample raw windows first ripe) s = .next s) ∧
    (s.samplePeriod ≤ s.sampleElapsed →
      ∃ t, exec (.presenceSample raw windows first ripe) s = .next t ∧
        (∀ p, maskHas t.debounced p =
          if maskHas raw p = maskHas s.raw p then maskHas raw p else maskHas s.debounced p) ∧
        SameHost { s with raw := raw, debounced := t.debounced, sampleElapsed := s.sampleElapsed - s.samplePeriod,
                          watch := t.watch } t)

/-- What a sample does at a port whose debounced presence changes, in every mode of the Watch (R8, R28, R52), and that nothing else reaches
a port whose presence stays, where no match may start a scan over it (R155).
The model's choices it rests on: log 11. -/
def Obligations.PresenceAtPorts : Prop :=
  ∀ (s : State) (raw first : PortMask) (windows : Vector (Option LineWindow) 24) (ripe : Bool),
    s.samplePeriod ≤ s.sampleElapsed →
    ∃ t, exec (.presenceSample raw windows first ripe) s = .next t ∧
      (∀ p, s.portState p = .vacant → maskHas s.debounced p = false → maskHas t.debounced p = true →
        t.portState p = .seated ∧ (t.ctx p).stamp = s.ms) ∧
      (∀ p, maskHas s.debounced p = true → maskHas t.debounced p = false →
        t.portState p =
          (if s.portState p = .dormant ∨ s.portState p = .held then s.portState p
           else if s.portState p = .handed ∧ s.run = false then .dormant else .vacant) ∧
        (t.ctx p).retryCounter = 0 ∧ (t.ctx p).retryFull = false ∧ (t.ctx p).cable = .none ∧ (t.ctx p).peer = none ∧
        (t.ctx p).length = none ∧ (t.ctx p).results = none ∧ (t.ctx p).armed = false ∧ (t.ctx p).inhibited = false ∧
        (t.ctx p).lastVerdict = (s.ctx p).lastVerdict ∧
        ((t.ctx p).hasFlag .cablePulled =
          ((s.ctx p).hasFlag .cablePulled || (s.portState p != .dormant && s.portState p != .held &&
            s.portState p != .vacant && s.portState p != .seated)))) ∧
      ∀ p, maskHas t.debounced p = maskHas s.debounced p → s.portState p ≠ .awaitFar → ripe = false →
        (s.watch.mode = .matching → s.scan.start = .watchMatch → ∀ k, .check p k ∉ s.scan.list) →
        SameButGrant (s.port p) (t.port p)

/-- The off-state evaluation, with the Watch in OFF: at a port in AWAIT_FAR whose presence does not change, the transmitter off as R3 has it
(R10, R11, R58, R59); and the end of a LINE check in flight on a port whose transmitter is off (R60, R159, R160), at the first sample that
finds its request old enough, or by the port's entry to another state at that sample. The bias is driven over windows asked for alone and
never by a transmitting port, and the line termination is presented by every port that does not transmit, at reset by all (R58).
The model's choices it rests on: log 11 (the order of the result and of a change of presence is an operand), log 21 (the Scheduler has
the result before the port acts on it), log 49. -/
def Obligations.AwaitFarResults : Prop :=
  (∀ (s : State) (raw first : PortMask) (windows : Vector (Option LineWindow) 24) (ripe : Bool) (p : PortId) (w : LineWindow),
    s.samplePeriod ≤ s.sampleElapsed → s.watch.mode = .off →
    s.portState p = .awaitFar → (s.port p).framer.tx = none → windows[p] = some w →
    (maskHas raw p = maskHas s.raw p → maskHas raw p = maskHas s.debounced p) →
    ∃ t, exec (.presenceSample raw windows first ripe) s = .next t ∧
      (w.transitions ≥ 8 ∨ w.level = .terminationWindow →
        t.portState p = .listen ∧ (t.port p).framer.tx.isSome = true ∧ (t.port p).framer.lock = .search ∧
        (t.port p).timers.lockSearch = some 0 ∧ (t.port p).offResult = .terminated ∧
        (t.ctx p).nbe = 0 ∧ (t.ctx p).fbe = 0 ∧ (t.ctx p).lapseCount = 0 ∧ (t.ctx p).stallCount = 0 ∧
        (t.ctx p).relayDrops = 0 ∧ (t.ctx p).windowCount = 0 ∧ (t.port p).notReadyRun = 0 ∧ (t.port p).followRun = 0 ∧
        (t.ctx p).peer = none ∧ (t.ctx p).length = none ∧ (t.ctx p).results = none) ∧
      (w.transitions < 8 → w.level = .ground ∨ w.level = .supply →
        t.portState p = .latched ∧ (t.ctx p).lastFault = .short ∧ (t.ctx p).retryCounter = (s.ctx p).retryCounter ∧
        (t.ctx p).retryFull = (s.ctx p).retryFull ∧ (t.port p).offResult = .short) ∧
      (w.transitions < 8 → w.level = .openBias ∨ w.level = .other →
        t.portState p = .awaitFar ∧ (t.ctx p).hasFlag .farOpen = true ∧ (t.port p).farOpenCause = true ∧
        (t.port p).offResult = .openLine)) ∧
  (∀ (s : State) (raw first : PortMask) (windows : Vector (Option LineWindow) 24) (ripe : Bool) (c : InFlight) (w : LineWindow),
    s.samplePeriod ≤ s.sampleElapsed → s.watch.mode = .off → s.scan.inFlight = some c → c.kind = .line →
    s.portState c.port = .seated ∨ s.portState c.port = .awaitFar ∨ s.portState c.port = .retryWait ∨
      s.portState c.port = .latched → windows[c.port] = some w →
    let lost : Prop := maskHas s.debounced c.port = true ∧ maskHas raw c.port = false ∧ maskHas s.raw c.port = false
    let terminated : Prop := w.transitions ≥ 8 ∨ w.level = .terminationWindow
    let short : Prop := w.transitions < 8 ∧ (w.level = .ground ∨ w.level = .supply)
    ∃ t, exec (.presenceSample raw windows first ripe) s = .next t ∧
      (ripe = true → ¬ lost ∨ maskHas first c.port = true → ScanGoesOn s t ∧ (terminated → CheckEnded c .terminated s t) ∧
        (short → CheckEnded c .short s t) ∧ (¬ terminated → ¬ short → CheckEnded c .openLine s t)) ∧
      (ripe = true → (t.port c.port).offResult = (if w.transitions ≥ 8 ∨ w.level = .terminationWindow then .terminated
        else if w.level = .ground ∨ w.level = .supply then .short else .openLine) ∧
        ((t.port c.port).offActivity = true ↔ w.transitions ≥ 8)) ∧
      (ripe = true → ¬ lost → s.portState c.port ≠ .awaitFar → t.portState c.port = s.portState c.port ∧
        (t.ctx c.port).flags = (s.ctx c.port).flags ∧ (t.ctx c.port).lastFault = (s.ctx c.port).lastFault) ∧
      (lost → maskHas first c.port = false ∨ ripe = false ∧ s.portState c.port ≠ .awaitFar →
        ScanGoesOn s t ∧ CheckEnded c .notApplicable s t) ∧
      (ripe = false → ¬ lost → s.portState c.port ≠ .awaitFar ∨ ¬ terminated → t.scan = s.scan) ∧
      (ripe = false → ¬ lost → s.portState c.port = .awaitFar → terminated →
        ScanGoesOn s t ∧ CheckEnded c (if (s.port c.port).onState.low then .low else .good) s t)) ∧
  (∀ (s : State) (p : PortId) (inWindow ripe : Bool),
    s.biasDriven p inWindow ripe = true ↔ (s.port p).framer.tx = none ∧ inWindow = true ∧
      (s.portState p = .awaitFar ∨ ripe = true ∧ (∃ c, s.scan.inFlight = some c ∧ c.port = p ∧ c.kind = .line) ∧
        (s.portState p = .seated ∨ s.portState p = .retryWait ∨ s.portState p = .latched))) ∧
  (∀ (s : State) (p : PortId), s.terminationPresented p = true ↔ (s.port p).framer.tx = none) ∧
  (∀ (s : State) (p : PortId), TransmitterInv s → (s.portState p).transmits = false → s.terminationPresented p = true) ∧
  ∀ p : PortId, State.reset.terminationPresented p = true

/-- WATCH_SETUP, its values installed together or the order refused, with nothing fired in any mode (R53, R55); and the firings of the
Presence Watch at a sample (R56, R57), with what the Scheduler does on them, where the sample leaves the check in flight alone: a presence
event drains a scan whose stop source is EVENT_THEN (R158), a match event starts one whose start source is MATCH (R155). A port is
masked where `ignore` is 1.
The model's choices it rests on: log 11 (the Watch takes the sample after the ports). -/
def Obligations.PresenceWatch : Prop :=
  (∀ (s : State) (o : Order), s.handed o → o.kind = .watchSetup →
     let code := (o.record.extractLsb' 256 8).toNat
     let period := 2 ^ (o.record.extractLsb' 264 2).toNat
     let ignore : PortMask := o.record.extractLsb' 288 24
     let compare : PortMask := o.record.extractLsb' 320 24
     let good : Prop := code ≤ 2 ∧ (o.record.extractLsb' 288 32).toNat < 2 ^ 24 ∧ (o.record.extractLsb' 320 32).toNat < 2 ^ 24
     (good → ∃ t, exec .watchSetup s = .next t ∧ OrderDone o 1 0 none s t ∧ t.ports = s.ports ∧
       t.watch.mode = (if code = 0 then .off else if code = 1 then .event else .matching) ∧
       t.watch.ignore = ignore ∧ t.watch.compare = compare ∧ t.watch.snapshot = s.watch.snapshot ∧
       (t.watch.held = true ↔ ∀ p, maskHas ignore p = false → maskHas s.debounced p = maskHas compare p) ∧
       t.samplePeriod = period ∧ (t.sampleElapsed = if period = s.samplePeriod then s.sampleElapsed else 0) ∧
       t.summary.getLsbD 2 = s.summary.getLsbD 2 ∧ t.summary.getLsbD 3 = s.summary.getLsbD 3 ∧ t.scan = s.scan) ∧
     (¬ good → ∃ t, exec .watchSetup s = .next t ∧ OrderDone o 3 0 none s t ∧ t.ports = s.ports ∧
       t.watch = s.watch ∧ t.samplePeriod = s.samplePeriod ∧ t.sampleElapsed = s.sampleElapsed ∧
       t.summary.getLsbD 2 = s.summary.getLsbD 2 ∧ t.summary.getLsbD 3 = s.summary.getLsbD 3 ∧ t.scan = s.scan)) ∧
  ∀ (s : State) (raw first : PortMask) (windows : Vector (Option LineWindow) 24) (ripe : Bool),
    s.samplePeriod ≤ s.sampleElapsed →
    ∃ t, exec (.presenceSample raw windows first ripe) s = .next t ∧
      t.watch.mode = s.watch.mode ∧ t.watch.ignore = s.watch.ignore ∧ t.watch.compare = s.watch.compare ∧
      (s.watch.mode = .event →
        (∃ p, maskHas s.watch.ignore p = false ∧ maskHas t.debounced p ≠ maskHas s.debounced p) →
        t.watch.snapshot = t.debounced ∧ t.page.headerMark = true ∧ t.summary.getLsbD 2 = true) ∧
      (s.watch.mode = .event →
        (∀ p, maskHas s.watch.ignore p = false → maskHas t.debounced p = maskHas s.debounced p) →
        t.watch = s.watch) ∧
      (s.watch.mode = .matching → t.debounced ≠ s.debounced →
        (t.watch.held = true ↔
          ∀ p, maskHas s.watch.ignore p = false → maskHas t.debounced p = maskHas s.watch.compare p) ∧
        (s.watch.held = false ∧ t.watch.held = true →
          t.watch.snapshot = t.debounced ∧ t.page.headerMark = true ∧ t.summary.getLsbD 3 = true) ∧
        (s.watch.held = true ∨ t.watch.held = false → t.watch.snapshot = s.watch.snapshot)) ∧
      (s.watch.mode = .off ∨ t.debounced = s.debounced → t.watch = s.watch) ∧
      ((∀ c, s.scan.inFlight = some c →
          c.kind ≠ .line ∧ s.portState c.port ≠ .awaitFar ∧ maskHas t.debounced c.port = maskHas s.debounced c.port) →
        let presenceEvent : Prop := s.watch.mode = .event ∧
          ∃ p, maskHas s.watch.ignore p = false ∧ maskHas t.debounced p ≠ maskHas s.debounced p
        let matchEvent : Prop := s.watch.mode = .matching ∧ s.watch.held = false ∧ t.watch.held = true
        (∀ drain, presenceEvent → s.scan.state = .running → s.scan.stop = .eventThen drain →
          t.scan = if drain = 0 ∧ s.scan.inFlight = none then
              { s.scan with state := .idle, postStop := 0, pacerOn := false, elapsed := 0, pointer := 0 }
            else { s.scan with state := .draining, postStop := drain }) ∧
        (presenceEvent → (s.scan.state ≠ .running ∨ ∀ drain, s.scan.stop ≠ .eventThen drain) → t.scan = s.scan) ∧
        (matchEvent → s.scan.start = .watchMatch → s.scan.state = .idle → s.scan.list ≠ [] → s.scan.pointer = 0 →
          s.scan.inFlight = none → s.scan.setup = none → ScanBegun s t) ∧
        (matchEvent → s.scan.start ≠ .watchMatch ∨ s.scan.state ≠ .idle ∨ s.scan.list = [] → t.scan = s.scan) ∧
        (¬ presenceEvent → ¬ matchEvent → t.scan = s.scan))

/-- The low-signal cause (R61): it becomes present, with LOW_SIGNAL set, when the below run has reached 8, and ends when the above run
has; nothing else changes. -/
def Obligations.LowSignalCause : Prop :=
  (∀ (s : State) (p : PortId),
    (s.port p).framer.tx.isSome = true → (s.port p).onState.below = 8 → (s.port p).onState.low = false →
    exec (.lowSignalCauseStart p) s =
      .next ((s.updPort p fun x => { x with onState := { x.onState with low := true } }).updCtx p fun c =>
        { c with flags := c.flags ||| 2 })) ∧
  ∀ (s : State) (p : PortId),
    (s.port p).framer.tx.isSome = true → (s.port p).onState.above = 8 → (s.port p).onState.low = true →
    exec (.lowSignalCauseEnd p) s = .next (s.updPort p fun x => { x with onState := { x.onState with low := false } })

/-! ### The Identity Reader -/

/-- The steps of an identity read (R66 to R69), each an equation for the whole state, with what the reader drives on the identity bus: the
memory's address 0x2A for write, offset 0, a repeated start and 0x2A for read; an acknowledge after data bytes 0 to 22 and none after
byte 23; a stop. An aborted read ends with a stop at the end of the byte, a data byte unacknowledged.
The model's choices it rests on: log 28. -/
def Obligations.IdentityRead : Prop :=
  (∀ (s : State) (p : PortId) (rest : List PortId), s.reader.phase = .idle → s.reader.queue = p :: rest →
    exec .identTake s = .next { s with
      reader := { phase := .settle, queue := rest,
                  service := some { port := p, attempt := 1, addressed := 0, data := [], aborting := false } } }.markHeader) ∧
  (∀ s : State, s.reader.phase = .settle →
    exec .identSettleEnd s = .next { s with
      reader := { s.reader with phase := .transfer }
      identityBus := s.identityBus ++ [.start, .address 0x2A false] }) ∧
  (∀ (s : State) (v : ReadInService) (b : Byte), s.reader.phase = .transfer → s.reader.service = some v →
    exec (.identByteComplete b) s = .next (
      if v.data.length ≥ 24 then s
      else if v.aborting then { s with
        reader := { s.reader with phase := .guardTime, service := none }
        identityBus := s.identityBus ++ (if v.addressed < 3 then [.stop] else [.noAcknowledge, .stop]) }
      else if v.addressed < 3 then { s with
        reader := { s.reader with service := some { v with addressed := v.addressed + 1 } }
        identityBus := s.identityBus ++
          (if v.addressed = 0 then [.offset 0] else if v.addressed = 1 then [.start, .address 0x2A true] else []) }
      else { s with
        reader := { s.reader with service := some { v with data := v.data ++ [b] } }
        identityBus := s.identityBus ++ (if v.data.length < 23 then [.acknowledge] else [.noAcknowledge, .stop]) })) ∧
  (∀ (s : State) (v : ReadInService), s.reader.phase = .transfer → s.reader.service = some v → v.addressed < 3 →
    v.aborting = false → v.attempt < 3 →
    exec .identAddressNack s = .next { s with
      reader := { s.reader with phase := .retryGap }, identityBus := s.identityBus ++ [.stop] }) ∧
  (∀ (s : State) (v : ReadInService), s.reader.phase = .retryGap → s.reader.service = some v →
    exec .identRetryGapEnd s = .next { s with
      reader := { s.reader with
        phase := .transfer, service := some { v with attempt := v.attempt + 1, addressed := 0, data := [] } }
      identityBus := s.identityBus ++ [.start, .address 0x2A false] }) ∧
  ∀ s : State, s.reader.phase = .guardTime →
    exec .identGuardEnd s = .next { s with reader := { s.reader with phase := .idle } }

/-- The outcome of a read at its port (R9, R63, R64, R68): VALID with the block's fields, CORRUPT, or MISSING after the third
attempt; the port goes on to AWAIT_FAR and the reader to GUARD. At a byte not acknowledged the reader sends a stop. A read that is being
aborted gives no outcome, with all 24 bytes held included (R69).
The model's choices it rests on: log 28. -/
def Obligations.IdentityOutcome : Prop :=
  (∀ (s : State) (v : ReadInService), s.reader.phase = .transfer → s.reader.service = some v → v.aborting = false →
    v.data.length = 24 → s.portState v.port = .seated →
    ∃ t, exec .identReadDone s = .next t ∧ Entered v.port .awaitFar s t ∧
      t.reader.phase = .guardTime ∧ t.reader.service = none ∧
      let b (i : Nat) : Nat := (v.data.getD i 0).toNat
      let good : Prop := v.data.foldl (· + ·) 0 = 0 ∧ b 0 = 0x3C ∧ 1 ≤ b 1 ∧ b 1 ≤ 3 ∧ 1 ≤ b 2 ∧ b 2 ≤ 4
      (good → ∃ f, (t.ctx v.port).cable = .valid f ∧ f.media.code = b 1 ∧ f.lanes = b 2 ∧ f.marked = b 3 * 256 + b 4 ∧
        f.serial = (v.data.drop 7).take 16 ∧
        f.propagation = (if 3000 ≤ b 5 * 256 + b 6 ∧ b 5 * 256 + b 6 ≤ 6000 then b 5 * 256 + b 6
          else if b 1 = 1 then 4350 else if b 1 = 2 then 4600 else 4900)) ∧
      (¬ good → (t.ctx v.port).cable = .corrupt ∧ (t.ctx v.port).hasFlag .identCorrupt = true)) ∧
  (∀ (s : State) (v : ReadInService), s.reader.phase = .transfer → s.reader.service = some v → v.aborting = false →
    v.addressed < 3 → v.attempt = 3 → s.portState v.port = .seated →
    ∃ t, exec .identAddressNack s = .next t ∧
      Entered v.port .awaitFar { s with identityBus := s.identityBus ++ [.stop] } t ∧
      t.reader.phase = .guardTime ∧ t.reader.service = none ∧
      (t.ctx v.port).cable = .missing ∧ (t.ctx v.port).hasFlag .identMissing = true) ∧
  (∀ (s : State) (v : ReadInService), s.reader.phase = .transfer → s.reader.service = some v → v.aborting = true →
    v.addressed < 3 →
    exec .identAddressNack s = .next { s with
      reader := { s.reader with phase := .guardTime, service := none }, identityBus := s.identityBus ++ [.stop] }) ∧
  ∀ (s : State) (v : ReadInService), s.reader.phase = .transfer → s.reader.service = some v → v.aborting = true →
    v.data.length = 24 →
    exec .identReadDone s = .next { s with reader := { s.reader with phase := .guardTime, service := none } }

/-! ### The service lane, sending -/

/-- A transmitted cycle starts (R4, R5, R72, R82, R94, R104, R108, R115, R125, R161): the status word, the FBE request, and every count of
cycles: the six cycle timers, the byte timer of a sender in OFFER, the scan wait of a SCAN job, the reply wait of a PEER check in flight
on the port, and the phase count of its grant.
The model's choices it rests on: log 3 (a timer stays at its length until its expiry is taken), log 19 (READY is held as last worked
out), log 39 (the byte timer rises throughout OFFER and keeps its count in GAP and IDLE), log 42 (the cycle start with which the
transmitter turns on counts), log 43. -/
def Obligations.TxCycleStart : Prop :=
  ∀ (s : State) (p : PortId) (x : Transmit), (s.port p).framer.tx = some x →
    ∃ t, exec (.txCycleStart p) s = .next t ∧ PortEvent p s t ∧
      (∃ y, (t.port p).framer.tx = some y ∧ y.index = 0 ∧ y.bit = 0 ∧ y.built = false ∧ y.crc = 0xFF ∧
        y.history = x.history ∧ y.heldCrc = x.heldCrc ∧
        wordFbe y.word = !(s.port p).framer.fbeRequest ∧
        (s.portState p ≠ .relaying →
          wordStage y.word = (s.portState p).code ∧ wordReady y.word = (s.port p).ready ∧
          wordTrain y.word = (s.ctx p).heldExerciser.isSome ∧ wordRelayed y.word = false) ∧
        (s.portState p = .relaying → ∀ q w, s.partner p = some q → s.portState q = .relaying →
          (s.port q).framer.effective = some w →
          wordStage y.word = wordStage w ∧ wordReady y.word = wordReady w ∧ wordTrain y.word = wordTrain w ∧
          wordRelayed y.word = true) ∧
        (s.portState p = .relaying → (∀ q w, s.partner p = some q → s.portState q = .relaying →
            (s.port q).framer.effective ≠ some w) →
          wordStage y.word = 11 ∧ wordReady y.word = false ∧ wordTrain y.word = false ∧ wordRelayed y.word = false)) ∧
      (t.port p).framer.fbeRequest = false ∧
      (let counted (length : Nat) (n : Option Nat) : Option Nat := n.map fun n => if n < length then n + 1 else n
       (t.port p).timers = { (s.port p).timers with
         lockSearch := counted 2048 (s.port p).timers.lockSearch
         greet := counted 1024 (s.port p).timers.greet
         peerDelay := counted 512 (s.port p).timers.peerDelay
         peerStart := counted 4096 (s.port p).timers.peerStart
         lapse := counted 4096 (s.port p).timers.lapse
         blockWindow := counted 8192 (s.port p).timers.blockWindow }) ∧
      (t.port p).channel = { (s.port p).channel with byteTimer :=
        if (s.port p).channel.sender = .offer ∧ (s.port p).channel.byteTimer < 32 then (s.port p).channel.byteTimer + 1
        else (s.port p).channel.byteTimer } ∧
      (t.port p).meter = { (s.port p).meter with scanWait :=
        if (s.port p).meter.scanJob.isSome = true ∧ (s.port p).meter.scanWait < 512 then (s.port p).meter.scanWait + 1
        else (s.port p).meter.scanWait } ∧
      (∀ c, s.scan.inFlight = some c → c.port = p → c.kind = .peer →
        let c' := { c with replyWait := if c.replyWait < 512 then c.replyWait + 1 else c.replyWait }
        t.scan = { s.scan with inFlight := some c' }) ∧
      ((∀ c, s.scan.inFlight = some c → c.port = p → c.kind ≠ .peer) → t.scan = s.scan) ∧
      (∀ g, s.grantOf p = some g → t.grantOf p = some { g with phaseCount := g.phaseCount + 1, patternOn := true }) ∧
      t.ctx p = s.ctx p ∧ (∀ q, q ≠ p → t.port q = s.port q)

/-- A transmitted frame starts (R61, R72, R74, R81, R87, R91): its sync word and scrambled fields, the CRC register and the held CRC, the
amplitude comparison, and the sender: the byte on offer, an idle frame, the gap. Nothing else of the block changes. The scrambler takes
the bits 10 and 15 positions earlier (R74), the receiver undoes it by the same rule, and the CRC's generator is 0xD5 (R81).
The model's choices it rests on: log 12, log 27 (a frame start after frame 7 with no cycle start between), log 39. -/
def Obligations.TxFrameStart : Prop :=
  (∀ (s : State) (p : PortId) (above : Bool) (x : Transmit), (s.port p).framer.tx = some x →
    let c := (s.port p).channel
    let enters : Prop := c.sender = .gap ∧ c.idleRun = 2
    let byte : Byte := if c.sender = .offer then c.bytes.getD c.byteIndex 0 else if enters then c.bytes.getD 0 0 else 0
    let o : Bool := if c.sender = .offer ∨ enters then true else false
    let sq : Bool := if c.sender = .offer then c.offeredS else if enters then !c.lastTakeS else c.lastTakeS
    ∃ y : Transmit,
      exec (.txFrameStart p above) s = .next (s.setPort p { s.port p with
        framer := { (s.port p).framer with tx := some y }
        channel :=
          if c.sender = .offer then
            { c with idleRun := 0, onOffer := true, byteTimer := if c.onOffer then c.byteTimer else 0 }
          else if enters then
            { c with sender := .offer, byteIndex := 0, offeredS := !c.lastTakeS, idleRun := 0, onOffer := true, byteTimer := 0
                     ackSeen := none }
          else if c.sender = .gap ∧ satInc 2 c.idleRun = 2 then
            { c with sender := .offer, byteIndex := 0, offeredS := !c.lastTakeS, idleRun := 2, onOffer := false, ackSeen := none }
          else { c with idleRun := satInc 2 c.idleRun }
        onState := if above then { (s.port p).onState with below := 0, above := satInc 8 (s.port p).onState.above }
          else { (s.port p).onState with below := satInc 8 (s.port p).onState.below, above := 0 } }) ∧
      y.built = true ∧ y.bit = 0 ∧ y.index = (if x.built then x.index + 1 else x.index) ∧ y.word = x.word ∧
      y.frame.extractLsb' 14 8 = (if y.index = 0 then 0x47 else 0xB8) ∧
      let covered := bitsOf (n := 8) byte ++ [o, sq, c.k, c.j, x.word.getMsbD y.index.val]
      y.frame.setWidth 14 = ofBits 14 (scramble x.history (covered ++ [x.heldCrc.getMsbD y.index.val])).1 ∧
      y.history = (scramble x.history (covered ++ [x.heldCrc.getMsbD y.index.val])).2 ∧
      y.crc = covered.foldl crcStep x.crc ∧ y.heldCrc = (if y.index = 7 then y.crc else x.heldCrc)) ∧
  (∀ (h : BitVec 15) (b : Bool) (rest : List Bool),
    let earlier := h.getLsbD 9 ^^ h.getLsbD 14
    let pushed (y : Bool) : BitVec 15 := h.extractLsb' 0 14 ++ BitVec.ofBool y
    scramble h [] = ([], h) ∧ descramble h [] = ([], h) ∧
      scramble h (b :: rest) =
        ((b ^^ earlier) :: (scramble (pushed (b ^^ earlier)) rest).1, (scramble (pushed (b ^^ earlier)) rest).2) ∧
      descramble h (b :: rest) = ((b ^^ earlier) :: (descramble (pushed b) rest).1, (descramble (pushed b) rest).2)) ∧
  (∀ (r : BitVec 8) (b : Bool),
    let shifted : BitVec 8 := r.extractLsb' 0 7 ++ 0#1
    crcStep r b = if r.getLsbD 7 = b then shifted else shifted ^^^ 0xD5)

/-- The sender takes the head of its queue while the framer is LOCKED (R90, R91), and its bytes sum to 0 (R88). A received frame reaches
the sender in OFFER by its K and J: two such frames in a row that carry the offered S are a take (R92); the next byte, the delivery of
the message (R93, R112) or its rejection (R95) follows.
The frame goes to the sender's half and to the receiver's, in the order the command names, to the second while the framer is still
LOCKED.
The model's choices it rests on: log 10 (a MEASURE job that a delivery completes leaves its port in the Pool's requests), log 13 (which half
of the channel takes a frame first), log 17 (the state a fault leads to outside the rows of R140), log 21 (a job's report comes before the
verdict), log 31 (a re-verdict in MISWIRED with stage NONE stays), log 39, log 54 (what a port is before it takes a notice of a type change). -/
def Obligations.MessageSendStart : Prop :=
  (∀ (s : State) (p : PortId) (m : Message) (rest : List Message),
    (s.port p).framer.lock = .locked → (s.port p).channel.sender = .idle → (s.port p).channel.queue = m :: rest →
    ∃ bytes, exec (.messageSendStart p) s = .next (s.updPort p fun x => { x with channel := { x.channel with
        queue := rest, sender := .gap, sending := some m, attempt := 1, bytes := bytes, onOffer := false, ackSeen := none } }) ∧
      bytes.foldl (· + ·) 0 = (0 : Byte) ∧
      (∀ i rr, m.body = .hello (.forwarded i) rr ∨ m.body = .hello .own rr ∧
            i = { chassis := s.plan.chassis, port := BitVec.ofNat 8 p.val, hops := 0, epoch := s.plan.epoch
                  lanes := (s.entry p).lanes } →
        bytes.length = 8 ∧ bytes[0]? = some 0x16 ∧
        (bytes.getD 1 0).toNat * 256 + (bytes.getD 2 0).toNat = i.chassis.toNat ∧ bytes.getD 3 0 = i.port ∧
        bytes.getD 4 0 = i.hops ∧ bytes.getD 5 0 = i.epoch ∧
        bytes.getD 6 0 = BitVec.ofNat 8 ((i.lanes - 1) % 4 + if rr then 128 else 0)) ∧
      (∀ l2 u a, m.body = .delay l2 u a → l2 < 65536 →
        bytes.length = 6 ∧ bytes[0]? = some 0x24 ∧ (bytes.getD 1 0).toNat * 256 + (bytes.getD 2 0).toNat = l2 ∧
        (bytes.getD 3 0).toNat = (s.entry p).trim % 256 ∧ (bytes.getD 4 0).getLsbD 0 = u ∧ (bytes.getD 4 0).getLsbD 1 = a)) ∧
  (∀ (s : State) (p : PortId) (bits : BitVec 14) (h : BitVec 15) (i : Fin 8) (first : Bool),
    (s.port p).framer.lock = .locked → (s.port p).framer.rxHistory = some h → (s.port p).framer.rxIndex = some i →
    let plain := (descramble h (bitsOf bits)).1
    let f := fieldsOf plain
    let u := s.updPort p fun x => { x with framer := { x.framer with
      rxHistory := some (descramble h (bitsOf bits)).2
      rxCrc := x.framer.rxCrc.map fun r => (plain.take 13).foldl crcStep r
      assembled := x.framer.assembled.map fun w => setBitAt w i (plain.getD 12 false)
      rxCrcBits := setBitAt x.framer.rxCrcBits i (plain.getD 13 false)
      wholeCycle := x.framer.wholeCycle || i == 7 } }
    let v := if first then u.senderTakes p f.k f.j else u.receiverTakes p f
    exec (.rxFrameFields p bits first) s = .next
      (if (v.port p).framer.lock = .locked then (if first then v.receiverTakes p f else v.senderTakes p f.k f.j) else v)) ∧
  ∀ (s : State) (p : PortId) (k j : Bool),
    let c := (s.port p).channel
    let t := s.senderTakes p k j
    let taken : Prop := c.sender = .offer ∧ c.onOffer = true ∧ k = c.offeredS ∧ c.ackSeen = some (k, j)
    PortEvent p s t ∧
    (¬ taken → t = s.updPort p fun x => { x with channel := { x.channel with
      ackSeen := if c.sender = .offer ∧ c.onOffer = true then some (k, j) else c.ackSeen } }) ∧
    (taken → c.byteIndex + 1 < c.bytes.length →
      t = s.updPort p fun x => { x with channel := { x.channel with
        lastTakeS := c.offeredS, byteIndex := c.byteIndex + 1, offeredS := !c.offeredS, onOffer := false, ackSeen := none } }) ∧
    ∀ m, taken → c.byteIndex + 1 ≥ c.bytes.length → c.sending = some m →
      let u := s.updPort p fun x => { x with channel := { x.channel with
        lastTakeS := c.offeredS, sender := .idle, sending := none, bytes := [], onOffer := false, ackSeen := none } }
      let marked (x : Option Job) : Option Job :=
        x.map fun x => if x.measurement ∈ m.purposes.measurement then { x with delivered := true } else x
      (j = false →
        let v := u.updPort p fun x => { x with meter := { x.meter with
          measureJob := marked x.meter.measureJob, legJob := marked x.meter.legJob } }
        (m.purposes.greeting = true → s.portState p = .greet →
          ((s.port p).helloHeard = false → t = v.updPort p fun x => { x with helloDelivered := true }) ∧
          ((s.port p).helloHeard = true → (s.port p).framer.lock = .locked → WiringVerdict p (s.ctx p) s t)) ∧
        (m.purposes.greeting = false ∨ s.portState p ≠ .greet → JobsCompleted p v t)) ∧
      (j = true → c.attempt < 4 →
        t = s.updPort p fun x => { x with channel := { x.channel with
          lastTakeS := c.offeredS, sender := .gap, sending := some m, attempt := c.attempt + 1, bytes := s.buildMessage p m,
          onOffer := false, ackSeen := none } }) ∧
      (j = true → c.attempt ≥ 4 → MessageFailed p m.purposes u t)

/-- A byte not taken in 32 cycle starts abandons the attempt (R94, R95): a new attempt of the same message, and after the fourth the
message has failed, to each of its purposes: CHANNEL_FAIL for a greeting in GREET and for a measurement in MEASURE, the LEG job, the relay
drop count, the scan check.
The model's choices it rests on: log 3, log 17 (the state a fault leads to outside the rows of R140), log 39 (the attempt number and the
byte index keep their values). -/
def Obligations.ByteTimerExpiry : Prop :=
  ∀ (s : State) (p : PortId) (m : Message), (s.port p).channel.sender = .offer → (s.port p).channel.onOffer = true →
    (s.port p).channel.byteTimer ≥ 32 → (s.port p).channel.sending = some m →
    ∃ t, exec (.byteTimerExpiry p) s = .next t ∧ PortEvent p s t ∧
      ((s.port p).channel.attempt < 4 →
        t = s.updPort p fun x => { x with channel := { x.channel with
          sender := .gap, sending := some m, attempt := x.channel.attempt + 1, bytes := s.buildMessage p m, onOffer := false,
          ackSeen := none } }) ∧
      ((s.port p).channel.attempt ≥ 4 → m.purposes.relay = false → m.purposes.scan = [] → m.purposes.measurement = [] →
        m.purposes.greeting = false →
        t = s.updPort p fun x => { x with channel := { x.channel with
          sender := .idle, sending := none, bytes := [], onOffer := false, ackSeen := none } }) ∧
      ((s.port p).channel.attempt ≥ 4 → m.purposes.greeting = true → s.portState p = .greet →
        (t.ctx p).lastFault = .channelFail ∧ t.portState p = s.faultState p ∧ (t.port p).framer.tx = none) ∧
      ((s.port p).channel.attempt ≥ 4 → MessageFailed p m.purposes
        (s.updPort p fun x => { x with channel := { x.channel with
          sender := .idle, sending := none, bytes := [], onOffer := false, ackSeen := none } }) t)

/-! ### The service lane, receiving -/

/-- Frame lock (R75): in SEARCH, when the bits at 0, 22 and 44 back from the last one end three sync words. -/
def Obligations.FrameLock : Prop :=
  (∀ (s : State) (p : PortId) (b : BitVec 52), (s.port p).framer.lock = .search →
    (∀ i : Fin 3, b.extractLsb' (22 * i.val) 8 = 0xB8 ∨ b.extractLsb' (22 * i.val) 8 = 0x47) →
    exec (.frameLock p b) s = .next (s.updPort p fun x => { x with framer := { x.framer with
      lock := .frame, erroredRun := 0,
      rxHistory := some (BitVec.setWidth 15 (b.extractLsb' 30 14 ++ b.extractLsb' 8 14)) } })) ∧
  ∀ (s : State) (p : PortId) (b : BitVec 52),
    (s.port p).framer.lock ≠ .search ∨ (∃ i : Fin 3, b.extractLsb' (22 * i.val) 8 ≠ 0xB8 ∧ b.extractLsb' (22 * i.val) 8 ≠ 0x47) →
    exec (.frameLock p b) s = .next s

/-- A sync check with frame lock (R76 to R78): the errored run, cycle lock on 0x47 in FRAME, lock lost at the fourth error. Cycle lock
resets every item of the channel but its queue (R99) and clears the meter, a SCAN job so ended being reported as abandoned (R117).
The model's choices it rests on: log 23 (a measurement's number). -/
def Obligations.SyncCheck : Prop :=
  (∀ (s : State) (p : PortId) (b : Byte) (first : Bool), (s.port p).framer.lock = .frame → b ≠ 0x47 →
    exec (.rxSyncCheck p ⟨b, first⟩) s = .next (s.updPort p fun x => { x with framer :=
      if b = 0xB8 then { x.framer with erroredRun := 0 }
      else if x.framer.erroredRun < 3 then { x.framer with erroredRun := x.framer.erroredRun + 1 }
      else x.framer.lockDropped })) ∧
  (∀ (s : State) (p : PortId) (first : Bool), (s.port p).framer.lock = .frame → s.portState p ≠ .listen →
    ∃ t, exec (.rxSyncCheck p ⟨0x47, first⟩) s = .next t ∧ PortEvent p s t ∧ t.portState p = s.portState p ∧
      (t.port p).framer.lock = .locked ∧ (t.port p).framer.rxIndex = some 0 ∧ (t.port p).framer.erroredRun = 0 ∧
      (t.port p).framer.pendingWord = none ∧ (t.port p).framer.effective = none ∧ (t.port p).framer.rxHeldCrc = none ∧
      (t.port p).notReadyRun = 0 ∧ (t.port p).followRun = 0 ∧
      (t.port p).channel = freshChannel (s.port p).channel.queue ∧ (t.port p).meter = (s.port p).meter.emptied ∧
      (∀ c, (s.port p).meter.scanJob.isSome = true → s.scan.inFlight = some c → c.port = p → c.kind = .delay →
        t.scan.inFlight = none ∧ (t.ctx p).lastScanKind = some .delay ∧ (t.ctx p).scanResult = .abandoned ∧
          (t.ctx p).scanPass = c.pass) ∧
      (s.portState p = .qualified ∨ s.portState p = .handed → (s.port p).timers.lapse.isSome = true →
        (t.port p).timers.lapse = none ∧ (t.ctx p).lapseCount = satInc 65535 (s.ctx p).lapseCount)) ∧
  (∀ (s : State) (p : PortId) (first : Bool), (s.port p).framer.lock = .frame → s.portState p = .listen →
    (s.port p).framer.tx.isSome = true →
    ∃ t, exec (.rxSyncCheck p ⟨0x47, first⟩) s = .next t ∧ (t.port p).framer.lock = .locked ∧
      ((s.entry p).effective ≠ .relay → Entered p .greet s t ∧ (t.port p).timers.greet = some 0 ∧
        (t.port p).channel = freshChannel (enqueueMessage (s.port p).channel.queue
          { body := .hello .own true
            purposes := { greeting := true, answer := false, relay := false, scan := [], measurement := [] } }) ∧
        (t.port p).meter = (s.port p).meter.emptied) ∧
      ((s.entry p).effective = .relay → Entered p .relaying s t ∧
        (t.port p).channel = freshChannel (s.port p).channel.queue ∧
        ∃ job : Job, job.measured = false ∧ job.delivered = false ∧ job.record = false ∧
          (t.port p).meter = { (s.port p).meter.emptied with
            legJob := some job, phase := .plus, pairNumber := some 1, measurementNo := job.measurement })) ∧
  ∀ (s : State) (p : PortId) (b : Byte) (first : Bool) (i : Fin 8), (s.port p).framer.lock = .locked →
    (s.port p).framer.rxIndex = some i →
    (b = (if i = 7 then 0x47 else 0xB8) →
      exec (.rxSyncCheck p ⟨b, first⟩) s = .next (s.updPort p fun x => { x with framer := { x.framer with
        erroredRun := 0, rxIndex := some (i + 1), markDue := i == 7 } })) ∧
    (b ≠ (if i = 7 then 0x47 else 0xB8) → (s.port p).framer.erroredRun < 3 →
      exec (.rxSyncCheck p ⟨b, first⟩) s = .next (s.updPort p fun x => { x with framer := { x.framer with
        erroredRun := x.framer.erroredRun + 1, rxIndex := some (i + 1), markDue := false } }))

/-- Lock lost in LOCKED (R13 to R15, R22, R24, R25, R78): the framer is in SEARCH, or off where the fault turns the transmitter off (R3,
R84), the channel is emptied, and the port faults, starts a lapse, or listens, by its state. A PEER check, or a DELAY check with its SCAN job,
in flight at the port ends ABANDONED (R161, R162), or NOT_APPLICABLE where the port leaves its state and its entry to the next reaches the
check first (R159).
The model's choices it rests on: log 17 (the state a fault leads to outside the rows of R140), log 51 (which reaches the check first is
an operand). -/
def Obligations.LockLost : Prop :=
  ∀ (s : State) (p : PortId) (b : Byte) (first : Bool) (i : Fin 8), (s.port p).framer.lock = .locked →
    (s.port p).framer.rxIndex = some i → b ≠ (if i = 7 then 0x47 else 0xB8) → (s.port p).framer.erroredRun ≥ 3 →
    ∃ t, exec (.rxSyncCheck p ⟨b, first⟩) s = .next t ∧ PortEvent p s t ∧ (t.port p).framer.lock ≠ .locked ∧
      (∀ c, s.scan.inFlight = some c → c.port = p → c.kind = .peer ∨ c.kind = .delay ∧ (s.port p).meter.scanJob.isSome = true →
        ScanGoesOn s t ∧ (t.port p).meter.scanJob = none ∧
        CheckEnded c (if first = true ∧ (s.portState p).leavesOnLockLoss = true then .notApplicable else .abandoned) s t) ∧
      (s.portState p = .greet ∨ s.portState p = .measure ∨ s.portState p = .exercise ∨ s.portState p = .relaying →
        (s.port p).framer.tx.isSome = true → (t.port p).framer.lock = .off) ∧
      (s.portState p ≠ .greet → s.portState p ≠ .measure → s.portState p ≠ .exercise → s.portState p ≠ .relaying →
        (t.port p).framer.lock = .search) ∧
      (s.portState p = .greet ∨ s.portState p = .measure ∨ s.portState p = .exercise ∨ s.portState p = .relaying →
        (t.ctx p).lastFault = .lockLost ∧ t.portState p = s.faultState p ∧ (t.port p).framer.tx = none) ∧
      (s.portState p = .qualified ∨ s.portState p = .handed →
        t.portState p = s.portState p ∧ (t.port p).timers.lapse = some 0 ∧ (t.port p).framer.effective = none ∧
        (t.port p).notReadyRun = 0 ∧ (t.port p).followRun = 0 ∧ (t.port p).handover = (s.port p).handover ∧
        (t.port p).channel = freshChannel [] ∧ (t.port p).meter = (s.port p).meter.emptied ∧
        (t.ctx p).lastFault = (s.ctx p).lastFault) ∧
      (s.portState p = .miswired → t.portState p = .listen ∧ (t.ctx p).lastFault = (s.ctx p).lastFault ∧
        (t.ctx p).retryCounter = (s.ctx p).retryCounter)

/-- A received frame (R79, R96 to R98) while the sender offers nothing. In FRAME the descrambler's history moves on alone. In LOCKED
the framer takes the frame; a frame that offers nothing is counted, one that offers a byte without validating it is kept for the next,
one that repeats the byte before it is validated, and the byte that ends a message is judged. An accepted HELLO (R13, R100, R103, R161)
and an accepted DELAY (R101, R113, R114) act by the port's state; a leg that a completed job takes to MISWIRED drops the HELLOs that wait
to be forwarded and counts each (R105).
The model's choices it rests on: log 10 (a completed MEASURE job leaves its port in the Pool's requests), log 13, log 17 (the state a fault
leads to outside the rows of R140), log 21 (a job's report comes before the verdict), log 31 (a re-verdict in MISWIRED with stage NONE
stays), log 32 (a HELLO is handled by the port's state, and in MISWIRED by its entry in effect), log 54 (what a port is before it takes a
notice of a type change). -/
def Obligations.ReceivedFrames : Prop :=
  ((∀ (s : State) (p : PortId) (bits : BitVec 14) (h : BitVec 15) (first : Bool), (s.port p).framer.lock = .frame →
    (s.port p).framer.rxHistory = some h →
    exec (.rxFrameFields p bits first) s = .next (s.updPort p fun x => { x with framer := { x.framer with
      rxHistory := some (descramble h (bitsOf bits)).2 } })) ∧
  ∀ (s : State) (p : PortId) (bits : BitVec 14) (h : BitVec 15) (i : Fin 8) (first : Bool) (f : FrameFields),
    (s.port p).framer.lock = .locked → (s.port p).framer.rxHistory = some h → (s.port p).framer.rxIndex = some i →
    fieldsOf (descramble h (bitsOf bits)).1 = f → (s.port p).channel.sender ≠ .offer →
    ∃ t, exec (.rxFrameFields p bits first) s = .next t ∧ RelayEvent p s t ∧
      (f.o = false →
        (t.port p).framer.rxHistory = some (descramble h (bitsOf bits)).2 ∧
        (t.port p).framer.wholeCycle = ((s.port p).framer.wholeCycle || i == 7) ∧
        (t.port p).channel.lastFrame = some ⟨f.byte, false, f.s⟩ ∧
        (t.port p).channel.rxIdleRun = satInc 2 (s.port p).channel.rxIdleRun ∧
        (t.port p).channel.k = (s.port p).channel.k ∧ (t.port p).channel.j = (s.port p).channel.j ∧
        ((s.port p).channel.receiver = .body → (s.port p).channel.rxIdleRun ≥ 1 →
          (s.port p).channel.rxIdleRun ≤ 2 → (t.port p).channel.receiver = .header ∧ (t.port p).channel.received = []) ∧
        t.ctx p = s.ctx p ∧ ∀ q, q ≠ p → t.port q = s.port q) ∧
      (f.o = true → (s.port p).channel.lastFrame ≠ some ⟨f.byte, true, f.s⟩ ∨ f.s = (s.port p).channel.k →
        (t.port p).channel = { (s.port p).channel with lastFrame := some ⟨f.byte, true, f.s⟩, rxIdleRun := 0 } ∧
        t.ctx p = s.ctx p ∧ ∀ q, q ≠ p → t.port q = s.port q) ∧
      (f.o = true → (s.port p).channel.lastFrame = some ⟨f.byte, true, f.s⟩ → f.s ≠ (s.port p).channel.k →
        (s.port p).channel.receiver = .body → (s.port p).channel.remaining ≥ 2 →
        (t.port p).channel = { (s.port p).channel with
          k := f.s, received := (s.port p).channel.received ++ [f.byte], remaining := (s.port p).channel.remaining - 1
          lastFrame := some ⟨f.byte, true, f.s⟩, rxIdleRun := 0 } ∧
        t.ctx p = s.ctx p ∧ ∀ q, q ≠ p → t.port q = s.port q) ∧
      (f.o = true → (s.port p).channel.lastFrame = some ⟨f.byte, true, f.s⟩ → f.s ≠ (s.port p).channel.k →
        (s.port p).channel.receiver = .header →
        (t.port p).channel.k = f.s ∧ (t.port p).channel.j = false ∧ (t.port p).channel.receiver = .body ∧
        (t.port p).channel.received = [f.byte] ∧ (t.port p).channel.remaining = f.byte.toNat % 16 + 1 ∧
        t.ctx p = s.ctx p ∧ ∀ q, q ≠ p → t.port q = s.port q) ∧
      (f.o = true → (s.port p).channel.lastFrame = some ⟨f.byte, true, f.s⟩ → f.s ≠ (s.port p).channel.k →
        (s.port p).channel.receiver = .body → (s.port p).channel.remaining = 1 →
        let bytes := (s.port p).channel.received ++ [f.byte]
        let b (n : Nat) : Nat := (bytes.getD n 0).toNat
        let hello : Prop := b 0 = 0x16 ∧ b 3 ≤ 23 ∧ b 1 * 256 + b 2 ≠ 0 ∧ b 1 * 256 + b 2 ≠ 65535 ∧ b 4 ≤ 3
        let delay : Prop := b 0 = 0x24 ∧ b 1 * 256 + b 2 ≤ 5631
        (bytes.foldl (· + ·) 0 ≠ 0 ∨ ¬ hello ∧ ¬ delay →
          (t.port p).channel.k = f.s ∧ (t.port p).channel.j = true ∧ (t.port p).channel.receiver = .header ∧
          t.ctx p = s.ctx p ∧ ∀ q, q ≠ p → t.port q = s.port q) ∧
        (bytes.foldl (· + ·) 0 = 0 → hello → s.portState p = .greet → (s.port p).helloDelivered = false →
          s.scan.inFlight = none →
          (t.port p).channel.k = f.s ∧ (t.port p).channel.j = false ∧ (t.port p).helloHeard = true ∧
          t.portState p = .greet ∧
          ∃ i, (t.ctx p).peer = some i ∧ i.chassis.toNat = b 1 * 256 + b 2 ∧ i.port.toNat = b 3 ∧ i.hops.toNat = b 4 ∧
            i.epoch.toNat = b 5 ∧ i.lanes = b 6 % 4 + 1) ∧
        ∃ u, (∀ q, q ≠ p → u.port q = s.port q) ∧
          u = s.setPort p { s.port p with framer := (u.port p).framer, channel := (u.port p).channel } ∧
          (u.port p).framer.lock = .locked ∧ (u.port p).framer.tx = (s.port p).framer.tx ∧
          (u.port p).channel.k = f.s ∧ (u.port p).channel.receiver = .header ∧
          (u.port p).channel.queue = (s.port p).channel.queue ∧
          (bytes.foldl (· + ·) 0 = 0 → hello → (u.port p).channel.j = false ∧
            ∃ i, exec (.rxFrameFields p bits first) s = .next (u.helloReceived p i ((bytes.getD 6 0).getLsbD 7)) ∧
              i.chassis.toNat = b 1 * 256 + b 2 ∧ i.port.toNat = b 3 ∧ i.hops.toNat = b 4 ∧ i.epoch.toNat = b 5 ∧
              i.lanes = b 6 % 4 + 1) ∧
          (bytes.foldl (· + ·) 0 = 0 → delay → (u.port p).channel.j = false ∧
            exec (.rxFrameFields p bits first) s = .next (u.delayReceived p
              { l2 := b 1 * 256 + b 2, trim := b 3, unstable := (bytes.getD 4 0).getLsbD 0,
                answer := (bytes.getD 4 0).getLsbD 1 })))) ∧
  (∀ (s : State) (p : PortId) (i : PeerIdentity) (rr : Bool), (s.port p).framer.lock = .locked →
    let t := s.helloReceived p i rr
    let queue := (s.port p).channel.queue
    let answerOnly : Purposes := { greeting := false, answer := true, relay := false, scan := [], measurement := [] }
    let answered := if rr then enqueueMessage queue { body := .hello .own false, purposes := answerOnly } else queue
    (∀ c, rr = false → s.scan.inFlight = some c → c.port = p → c.kind = .peer →
      t.scan.inFlight = none ∧ (t.ctx p).lastScanKind = some .peer ∧ (t.ctx p).scanResult = .replied ∧
        (t.ctx p).scanPass = c.pass) ∧
    (s.portState p = .listen → (∀ c, s.scan.inFlight = some c → c.port ≠ p ∨ c.kind ≠ .peer) → t = s) ∧
    (s.portState p = .greet → (t.ctx p).peer = some i ∧
      ((s.port p).helloDelivered = false → t.portState p = .greet ∧ (t.port p).helloHeard = true ∧
        (t.port p).channel.queue = queue) ∧
      ((s.port p).helloDelivered = true → (t.port p).channel.queue = answered ∧
        WiringVerdict p { s.ctx p with peer := some i } s t)) ∧
    (s.portState p = .measure → t.portState p = .measure ∧ (t.ctx p).peer = some i ∧ (t.port p).channel.queue = answered) ∧
    (s.portState p = .exercise →
      t.portState p = .exercise ∧ (t.ctx p).peer = (s.ctx p).peer ∧ (t.port p).channel.queue = answered) ∧
    (s.portState p = .qualified ∨ s.portState p = .handed ∨ s.portState p = .miswired ∧ (s.entry p).effective ≠ .relay →
      (t.ctx p).peer = some i ∧ ReVerdict p { s.ctx p with peer := some i } s t ∧
        (t.portState p ≠ .dormant → (t.port p).channel.queue = answered)) ∧
    (s.portState p = .miswired → (s.entry p).effective = .relay → t.portState p = .miswired ∧
      (t.ctx p).peer = (s.ctx p).peer ∧ (t.port p).channel.queue = queue ∧
      (t.ctx p).relayDrops = if (s.ctx p).relayDrops < 65535 then (s.ctx p).relayDrops + 1 else (s.ctx p).relayDrops)) ∧
  ∀ (s : State) (p : PortId) (r : DelayRecord), (s.port p).framer.lock = .locked →
    let t := s.delayReceived p r
    let marked (x : Option Job) : Option Job := x.map fun x => { x with record := true }
    let recorded : Meter := { (s.port p).meter with
      peerRecord := some r, measureJob := marked (s.port p).meter.measureJob, legJob := marked (s.port p).meter.legJob,
      scanJob := marked (s.port p).meter.scanJob }
    let answerOnly : Purposes := { greeting := false, answer := true, relay := false, scan := [], measurement := [] }
    let answers : Prop := s.portState p = .exercise ∨ s.portState p = .qualified ∨ s.portState p = .handed ∨
      s.portState p = .miswired ∨ s.portState p = .relaying
    (s.portState p = .listen → t = s) ∧
    (s.portState p = .greet → t = s.updPort p fun x => { x with meter := recorded }) ∧
    (s.portState p = .measure →
      (∀ l2 j, r.answer = false → (s.port p).meter.ownL2 = some l2 → (s.port p).meter.measureJob = some j → j.delivered = true →
        JobsCompleted p (s.updPort p fun x => { x with
          meter := recorded
          channel := { x.channel with
            queue := enqueueMessage x.channel.queue { body := .delay l2 false true, purposes := answerOnly } } }) t) ∧
      (r.answer = true ∨ (s.port p).meter.ownL2 = none ∨ (∀ j, (s.port p).meter.measureJob = some j → j.delivered = false) →
        JobsCompleted p (s.updPort p fun x => { x with meter := recorded }) t)) ∧
    (answers → r.answer = false →
      ∃ n : Nat,
        let job : Job := { measured := false, delivered := false, record := false, measurement := n }
        let begun : Meter := { recorded with
          measurementNo := n, phase := .plus, pairNumber := some 1, biasMinus := false, answerJob := some job }
        let joined : Meter := { recorded with answerJob := some job }
        JobsCompleted p (s.updPort p fun x => { x with meter := if recorded.phase = .idle then begun else joined }) t) ∧
    (answers → r.answer = true → (s.port p).meter.scanJob ≠ none ∨ (s.port p).meter.legJob ≠ none →
      JobsCompleted p (s.updPort p fun x => { x with meter := recorded }) t) ∧
    (answers → r.answer = true → (s.port p).meter.scanJob = none → (s.port p).meter.legJob = none → t = s)

/-- A HELLO accepted on a leg in RELAYING (R102): forwarded to the partner with its hops raised by one, or dropped and counted. The merge
rule by which every message is queued (R89): at the tail, or in the place of the waiting record of its type, with the new body, the
union of the purposes, reply-request if either had it, and ANSWER if both had it. -/
def Obligations.RelayForwards : Prop :=
  (let isHello (m : Message) : Bool := match m.body with | .hello _ _ => true | .delay _ _ _ => false
   ∀ (before after : List Message) (old new : Message), (∀ m ∈ before, isHello m ≠ isHello new) →
    enqueueMessage before new = before ++ [new] ∧
    (isHello old = isHello new → ∃ merged,
      enqueueMessage (before ++ old :: after) new = before ++ merged :: after ∧
      merged.purposes = {
        greeting := old.purposes.greeting || new.purposes.greeting, answer := old.purposes.answer || new.purposes.answer
        relay := old.purposes.relay || new.purposes.relay, scan := old.purposes.scan ++ new.purposes.scan
        measurement := old.purposes.measurement ++ new.purposes.measurement } ∧
      (∀ from₁ from₂ r₁ r₂, old.body = .hello from₁ r₁ → new.body = .hello from₂ r₂ →
        merged.body = .hello from₂ (r₁ || r₂)) ∧
      ∀ l₁ l₂ u₁ u₂ a₁ a₂, old.body = .delay l₁ u₁ a₁ → new.body = .delay l₂ u₂ a₂ →
        merged.body = .delay l₂ u₂ (a₁ && a₂))) ∧
  ∀ (s : State) (p q : PortId) (i : PeerIdentity) (rr : Bool), s.portState p = .relaying → s.partner p = some q →
    (rr = false → s.scan.inFlight = none) →
    (i.hops.toNat < 3 → s.portState q = .relaying →
      s.helloReceived p i rr = s.updPort q fun x => { x with channel := { x.channel with
        queue := enqueueMessage x.channel.queue
          { body := .hello (.forwarded { i with hops := i.hops + 1 }) rr
            purposes := { greeting := false, answer := false, relay := true, scan := [], measurement := [] } } } }) ∧
    (i.hops.toNat = 3 ∨ s.portState q ≠ .relaying →
      s.helloReceived p i rr = s.updCtx p fun c => { c with relayDrops := if c.relayDrops < 65535 then c.relayDrops + 1 else c.relayDrops })

/-- The end of a received cycle (R81 to R83): no comparison at the first end after cycle lock; a mismatch counts in NBE and asks for
FBE; a match makes the pending word effective, and FBE counts a word with FBE 0. A mismatch in HANDED is in `BlockErrorBudget`, a match in
QUALIFIED, HANDED and EXERCISE in `PeerWords`. -/
def Obligations.RxCycleEnd : Prop :=
  ∀ (s : State) (p : PortId), (s.port p).framer.lock = .locked → (s.port p).framer.wholeCycle = true →
    ∃ t, exec (.rxCycleEnd p) s = .next t ∧ PortEvent p s t ∧
      ((s.port p).framer.rxHeldCrc = none ∨ (s.port p).framer.pendingWord = none →
        t = s.updPort p fun x => { x with framer := { x.framer with
          pendingWord := x.framer.assembled, rxHeldCrc := x.framer.rxCrc, rxCrc := some 0xFF, assembled := some 0,
          rxCrcBits := 0, wholeCycle := false } }) ∧
      (∀ h w, (s.port p).framer.rxHeldCrc = some h → (s.port p).framer.pendingWord = some w →
        (s.port p).framer.rxCrcBits ≠ h → s.portState p ≠ .handed →
        (t.port p).framer = { (s.port p).framer with
          fbeRequest := true, pendingWord := (s.port p).framer.assembled, rxHeldCrc := (s.port p).framer.rxCrc, rxCrc := some 0xFF
          assembled := some 0, rxCrcBits := 0, wholeCycle := false } ∧
        t.ctx p = { s.ctx p with nbe := if (s.ctx p).nbe < 65535 then (s.ctx p).nbe + 1 else (s.ctx p).nbe } ∧
        maskHas t.page.dirty p = true ∧ (t.port p).notReadyRun = (s.port p).notReadyRun ∧
        (t.port p).followRun = (s.port p).followRun) ∧
      (∀ w, (s.port p).framer.rxHeldCrc = some (s.port p).framer.rxCrcBits → (s.port p).framer.pendingWord = some w →
        s.portState p ≠ .qualified → s.portState p ≠ .handed → s.portState p ≠ .exercise →
        (t.port p).framer = { (s.port p).framer with
          effective := some w, pendingWord := (s.port p).framer.assembled, rxHeldCrc := (s.port p).framer.rxCrc, rxCrc := some 0xFF
          assembled := some 0, rxCrcBits := 0, wholeCycle := false } ∧
        (wordFbe w = false → maskHas t.page.dirty p = true) ∧
        t.ctx p = { s.ctx p with fbe := if wordFbe w then (s.ctx p).fbe else satInc 65535 (s.ctx p).fbe } ∧
        (t.port p).notReadyRun =
          (if wordReady w = false ∨ wordStage w < 4 ∨ 11 < wordStage w then satInc 2 (s.port p).notReadyRun else 0) ∧
        (t.port p).followRun =
          (if wordStage w ∈ [4, 5, 6, 7, 10] then satInc 2 (s.port p).followRun else 0))

/-- The block-error budget (R23): a mismatch in HANDED, which asks for FBE and keeps the effective word (R82), with T the block-error
threshold; and the end of a window, at which the count returns to 0, the next window starts and the DEGRADED cause ends.
The model's choices it rests on: log 3, log 17 (the state a fault leads to outside the rows of R140). -/
def Obligations.BlockErrorBudget : Prop :=
  (∀ (s : State) (p : PortId) (h w : BitVec 8), (s.port p).framer.lock = .locked → (s.port p).framer.wholeCycle = true →
     (s.port p).framer.rxHeldCrc = some h → (s.port p).framer.pendingWord = some w → (s.port p).framer.rxCrcBits ≠ h →
     s.portState p = .handed →
     ∃ t, exec (.rxCycleEnd p) s = .next t ∧ PortEvent p s t ∧
       (t.ctx p).nbe = satInc 65535 (s.ctx p).nbe ∧
       let n := satInc 65535 (s.ctx p).windowCount
       let T := (s.entry p).threshold
       (t.ctx p).windowCount = n ∧
       (T > 0 → n > T → (t.ctx p).hasFlag .degraded = true) ∧
       (T > 0 → n > 4 * T → (t.ctx p).lastFault = .linkErrors ∧ t.portState p = s.faultState p ∧ (t.port p).handover = false) ∧
       maskHas t.page.dirty p = true ∧
       (T = 0 ∨ n ≤ 4 * T → t.portState p = .handed ∧ (t.ctx p).lastFault = (s.ctx p).lastFault ∧
         (t.port p).framer = { (s.port p).framer with
           fbeRequest := true, pendingWord := (s.port p).framer.assembled, rxHeldCrc := (s.port p).framer.rxCrc, rxCrc := some 0xFF
           assembled := some 0, rxCrcBits := 0, wholeCycle := false } ∧
         (t.port p).notReadyRun = (s.port p).notReadyRun ∧ (t.port p).followRun = (s.port p).followRun ∧
         (T > 0 → (t.port p).degradedCause = decide (n > T)))) ∧
  ∀ (s : State) (p : PortId) (n : Nat), s.portState p = .handed → (s.port p).timers.blockWindow = some n → n ≥ 8192 →
    exec (.blockErrorWindowEnd p) s =
      .next ((s.updCtx p fun c => { c with windowCount := 0 }).updPort p fun x =>
        { x with degradedCause := false, timers := { x.timers with blockWindow := some 0 } })

/-- What an effective word does in QUALIFIED and HANDED (R17 to R20): handover, drop-back, peer follow; and at the Pool, for a port in
EXERCISE that holds an exerciser (R128, R129, R134): the opening of the window, the peer-stop run, and the early stop, which ends a soak
with SHORT_SOAK or stalls the port. In each state the word is effective, FBE counts, the persistence runs are taken, and a word that asks
for nothing more changes nothing more (R17, R81, R83).
A check in flight goes on between QUALIFIED and HANDED, and a PEER or DELAY check ends NOT_APPLICABLE, with its SCAN job, where peer follow
takes the port to LISTEN (R116, R159).
The model's choices it rests on: log 17 (the state a fault leads to outside the rows of R140), log 21 (at the entry to LISTEN a check ends
before the meter is cleared), log 54 (what a port is before it takes a notice of a type change), and log 41:
that FBE is 0 after peer follow in QUALIFIED, on a word with FBE 0 too, is the model's choice, since R83 and R11 give no order. -/
def Obligations.PeerWords : Prop :=
  ∀ (s : State) (p : PortId) (w : BitVec 8), (s.port p).framer.lock = .locked → (s.port p).framer.wholeCycle = true →
    (s.port p).framer.rxHeldCrc = some (s.port p).framer.rxCrcBits → (s.port p).framer.pendingWord = some w →
    ∃ t, exec (.rxCycleEnd p) s = .next t ∧ PortEvent p s t ∧
      let notReady : Bool := !wordReady w || wordStage w < 4 || 11 < wordStage w
      let follows : Bool := [4, 5, 6, 7, 10].contains (wordStage w)
      let quiet := if notReady then satInc 2 (s.port p).notReadyRun else 0
      let follow := if follows then satInc 2 (s.port p).followRun else 0
      let fbe := if wordFbe w then (s.ctx p).fbe else satInc 65535 (s.ctx p).fbe
      let framer := { (s.port p).framer with
        effective := some w, pendingWord := (s.port p).framer.assembled, rxHeldCrc := (s.port p).framer.rxCrc, rxCrc := some 0xFF
        assembled := some 0, rxCrcBits := 0, wholeCycle := false }
      let heard : Port := { s.port p with
        ctx := { s.ctx p with fbe := fbe }, framer := framer, notReadyRun := quiet, followRun := follow }
      ((t.portState p).transmits = true → (s.port p).framer.tx.isSome = true → (t.port p).framer = framer) ∧
      (t.ctx p).fbe = (if s.portState p = .qualified ∧ follow = 2 then 0 else fbe) ∧
      (wordFbe w = false → maskHas t.page.dirty p = true) ∧
      (s.portState p = .qualified → follow ≠ 2 →
        ¬ ((s.port p).ready = true ∧ wordReady w = true ∧ (wordStage w = 8 ∨ wordStage w = 9)) → t.port p = heard) ∧
      (s.portState p = .handed → follow ≠ 2 → quiet ≠ 2 → t.port p = heard) ∧
      (s.portState p = .exercise → s.grantOf p = none → t.port p = heard ∧ t.pool = s.pool) ∧
      (s.portState p = .qualified → (s.port p).ready = true → wordReady w = true → wordStage w = 8 ∨ wordStage w = 9 →
        Entered p .handed s t ∧ (t.ctx p).windowCount = 0 ∧ (t.port p).timers.blockWindow = some 0) ∧
      (∀ c, s.scan.inFlight = some c → c.port = p → c.kind = .peer ∨ c.kind = .delay →
        (s.portState p = .qualified → follow ≠ 2 → t.scan = s.scan) ∧
        (s.portState p = .handed → follow ≠ 2 → s.run = true → t.scan = s.scan) ∧
        (s.portState p = .qualified → follow = 2 →
          CheckEnded c .notApplicable s t ∧ ScanGoesOn s t ∧ (t.port p).meter.scanJob = none)) ∧
      (s.portState p = .qualified → follows = true → (s.port p).followRun = 1 ∨ (s.port p).followRun = 2 →
        (s.entry p).effective ≠ .relay → (s.port p).framer.tx.isSome = true →
        t.portState p = .greet ∧ (t.ctx p).lastFault = (s.ctx p).lastFault ∧
        (t.ctx p).retryCounter = (s.ctx p).retryCounter) ∧
      (s.portState p = .handed → follows = true → (s.port p).followRun = 1 ∨ (s.port p).followRun = 2 →
        (t.ctx p).lastFault = .peerWithdrew ∧ t.portState p = s.faultState p) ∧
      (s.portState p = .handed → follows = false → notReady = true →
        (s.port p).notReadyRun = 1 ∨ (s.port p).notReadyRun = 2 →
        t.portState p = (if s.run then .qualified else .dormant) ∧ (t.ctx p).armed = false ∧ (t.port p).handover = false ∧
        (t.ctx p).lastFault = (s.ctx p).lastFault ∧ (t.ctx p).retryCounter = (s.ctx p).retryCounter) ∧
      ∀ e g, s.portState p = .exercise → (s.ctx p).heldExerciser = some e → s.pool.owners[e] = some g →
        let opens : Prop := wordStage w = 7 ∧ wordTrain w = true
        let run := if wordTrain w then 0 else satInc 2 g.peerStop
        (g.phase = .start → opens → t.portState p = .exercise ∧ (t.port p).timers.peerStart = none ∧
          t.grantOf p = some { g with phase := .training, phaseCount := 0, peerStop := 0 }) ∧
        (g.phase = .start → ¬ opens → t.port p = heard ∧ t.pool = s.pool) ∧
        (g.phase ≠ .start → run ≠ 2 → t.port p = heard ∧ t.grantOf p = some { g with peerStop := run }) ∧
        (g.phase = .training ∨ g.phase = .soak ∧ g.units = 0 → run = 2 → Stalled p e s t) ∧
        (∀ r, g.phase = .soak → g.units ≥ 1 → run = 2 → (s.ctx p).results = some r → p ∉ s.pool.queue →
          (t.ctx p).hasFlag .shortSoak = true ∧ (t.ctx p).heldExerciser = none ∧ SoakOver p g r (some w) s t)

/-! ### Delay and length -/

/-- An arrival mark (R80, R109 to R112, R114, R115): one for each good frame 0 while LOCKED, else nothing. The first of a pair is recorded,
the second gives the spread. A stable pair gives the own doubled offset, marks the jobs, ends an ANSWER job and queues the port's DELAY,
and jobs that have their last mark complete. An unstable pair is followed by another; the third ends the measurement for each job.
The model's choices it rests on: log 10 (a completed MEASURE job leaves its port in the Pool's requests), log 17 (the state a fault leads to
outside the rows of R140), log 21, log 23 (a DELAY names its measurement and its check by a number), log 31 (a re-verdict in MISWIRED with
stage NONE stays), log 43 (the scan wait of a SCAN job that has ended keeps its count), log 44 (no job takes part), log 54
(what a port is before it takes a notice of a type change). -/
def Obligations.ArrivalMark : Prop :=
  (∀ (s : State) (p : PortId) (lm : Fin 2816), (s.port p).framer.markDue = false → exec (.arrivalMark p lm) s = .next s) ∧
  ∀ (s : State) (p : PortId) (lm : Fin 2816), (s.port p).framer.markDue = true →
    ∃ t, exec (.arrivalMark p lm) s = .next t ∧ PortEvent p s t ∧
      ((s.port p).meter.phase = .idle ∨ (s.port p).meter.phase = .minus ∧ (s.port p).meter.lp = none →
        t = s.updPort p fun x => { x with framer := { x.framer with markDue := false } }) ∧
      ((s.port p).meter.phase = .plus →
        t = s.updPort p fun x => { x with
          framer := { x.framer with markDue := false }
          meter := { x.meter with lp := some lm.val, phase := .minus, biasMinus := true } }) ∧
      ∀ lp n, (s.port p).meter.phase = .minus → (s.port p).meter.lp = some lp → lp < 2816 →
        (s.port p).meter.pairNumber = some n →
        let d := (lm.val + 2816 - lp) % 2816
        let spread : Int := if d < 1408 then d else (d : Int) - 2816
        let stable : Prop := d ≤ 16 ∨ 2800 ≤ d
        let m := (s.port p).meter
        let partOf (j : Option Job) : Bool := match j with | some j => !j.measured | none => false
        let measured (j : Option Job) : Option Job := j.map fun j => { j with measured := true }
        (stable →
          let l2 := if d ≤ 16 then (2 * lp + d) % 5632 else (2 * lp + d + 2816) % 5632
          let purposes : Purposes := {
            greeting := false, answer := partOf m.answerJob, relay := false
            scan := if partOf m.scanJob then s.delayCheckNumbers p else []
            measurement := if partOf m.measureJob || partOf m.legJob then [m.measurementNo] else [] }
          let answer := !(partOf m.measureJob || partOf m.legJob || partOf m.scanJob)
          JobsCompleted p (s.updPort p fun x => { x with
            framer := { x.framer with markDue := false }
            meter := { m with
              lm := some lm.val, spread := some spread, phase := .idle, pairNumber := none, ownL2 := some l2
              measureJob := measured m.measureJob, legJob := measured m.legJob, scanJob := measured m.scanJob
              answerJob := none }
            channel := { x.channel with
              queue := enqueueMessage x.channel.queue { body := .delay l2 false answer, purposes := purposes } } }) t) ∧
        (¬ stable → n < 3 →
          t = s.updPort p fun x => { x with
            framer := { x.framer with markDue := false }
            meter := { m with
              lm := some lm.val, spread := some spread, phase := .plus, pairNumber := some (n + 1), biasMinus := false } }) ∧
        (¬ stable → 3 ≤ n → partOf m.measureJob = true →
          (t.ctx p).lastFault = .delayUnstable ∧ t.portState p = s.faultState p) ∧
        (¬ stable → 3 ≤ n → partOf m.measureJob = false →
          let answerOnly : Purposes := { greeting := false, answer := true, relay := false, scan := [], measurement := [] }
          t.ctx p = { s.ctx p with lastScanKind := (t.ctx p).lastScanKind, scanResult := (t.ctx p).scanResult
                                   scanPass := (t.ctx p).scanPass } ∧
          t.port p = { s.port p with
            ctx := t.ctx p
            framer := { (s.port p).framer with markDue := false }
            meter := { m with
              lm := some lm.val, spread := some spread, phase := .idle, pairNumber := none
              legJob := if partOf m.legJob then none else m.legJob
              scanJob := if partOf m.scanJob then none else m.scanJob
              answerJob := none }
            channel := { (s.port p).channel with
              queue := if partOf m.legJob || partOf m.scanJob || partOf m.answerJob then
                  enqueueMessage (s.port p).channel.queue { body := .delay 0 true true, purposes := answerOnly }
                else (s.port p).channel.queue } } ∧
          ∀ c, partOf m.scanJob = true → s.scan.inFlight = some c → c.port = p → c.kind = .delay →
            t.scan.inFlight = none ∧ (t.ctx p).lastScanKind = some .delay ∧ (t.ctx p).scanResult = .unstable ∧
              (t.ctx p).scanPass = c.pass)

/-- The length computation (R118, R119). -/
def Obligations.LengthComputed : Prop :=
  ∀ (s : State) (p : PortId) (own : Nat) (r : DelayRecord),
    let t := s.storeLength p own r
    let r2 := (own + r.l2) % 5632
    let less := 104 + (s.entry p).trim + r.trim
    let n2 := r2 - less
    let prop := match (s.ctx p).cable with
      | .valid f => f.propagation
      | _ => 4900
    let raw := (n2 * 31250 + prop) / (2 * prop)
    let length := if raw > 4095 then 4095 else raw
    PortEvent p s t ∧
      (t.port p).meter.lastR2 = some r2 ∧ (t.port p).meter.lastN2 = some n2 ∧ (t.ctx p).length = some length ∧
      (t.ctx p).hasFlag .delayNegative = ((s.ctx p).hasFlag .delayNegative || decide (r2 < less)) ∧
      (t.ctx p).hasFlag .lengthSat = ((s.ctx p).hasFlag .lengthSat || decide (raw > 4095)) ∧
      (t.ctx p).hasFlag .lengthDisagrees = ((s.ctx p).hasFlag .lengthDisagrees ||
        match (s.ctx p).cable with
        | .valid f => decide (f.marked > length + (s.entry p).tolerance ∨ length > f.marked + (s.entry p).tolerance)
        | _ => false) ∧
      ((s.ctx p).length ≠ some length → maskHas t.page.dirty p = true)

/-! ### Lane exercise -/

/-- A request taken by the Pool (R121): the lowest free exerciser, or the tail of the wait queue.
The model's choices it rests on: log 10, log 54 (what a port is before it takes a notice of a type change). -/
def Obligations.ExerciserGrant : Prop :=
  ∀ (s : State) (p : PortId), p ∈ s.pool.requests →
    ∃ t, exec (.exerciserGrant p) s = .next t ∧ PortEvent p s t ∧ t.portState p = s.portState p ∧
      t.pool.requests = s.pool.requests.filter (· != p) ∧
      (∀ e : ExerciserId, s.pool.owners[e] = none → (∀ d : ExerciserId, d < e → s.pool.owners[d] ≠ none) →
        (∃ g, t.pool.owners[e] = some g ∧ g.port = p ∧ g.lanes = (s.entry p).lanes ∧ g.phase = .start ∧ g.phaseCount = 0 ∧
          g.peerStop = 0 ∧ ∀ i : LaneId, i.val < g.lanes → g.checkers[i].state = .search) ∧
        (∀ d : ExerciserId, d ≠ e → t.pool.owners[d] = s.pool.owners[d]) ∧ t.pool.queue = s.pool.queue ∧
        (t.ctx p).heldExerciser = some e ∧ (t.port p).selectorCode = some e ∧ (t.port p).timers.peerStart = some 0 ∧
        t.page.headerMark = true) ∧
      ((∀ e : ExerciserId, s.pool.owners[e] ≠ none) →
        t.pool.queue = s.pool.queue ++ [p] ∧ t.pool.owners = s.pool.owners ∧ t.page.headerMark = true ∧ t.ports = s.ports)

/-- A lane selector load carries the codes as they stand when it starts, and the selector takes those at the strobe (R124). The pattern: on
each lane under test the seed and then the XOR, from the owner's cycle start on, and idle on the others (R125). Each event of a lane
checker of an owned exerciser replaces the one checker and nothing else (R126, R127): a marker found where the last 23 bits are the seed,
the lock at the 64th expected bit, an arrival 450,560 bits after the one before, an error at an unexpected bit; on other bits, the
expected ones of an error event included, nothing. A free exerciser's checkers take no event.
The model's choices it rests on: log 14. -/
def Obligations.LanesAndSelector : Prop :=
  ((∀ s : State, s.selector.loading = none → s.selector.changePending = true →
     ∃ codes : Vector (Option ExerciserId) 24, (∀ p : PortId, codes[p] = (s.port p).selectorCode) ∧
       exec .laneSelectorLoadStart s = .next { s with selector := { s.selector with loading := some codes, changePending := false } }) ∧
   ∀ (s : State) (codes : Vector (Option ExerciserId) 24), s.selector.loading = some codes →
     exec .laneSelectorLoadDone s = .next { s with selector := { s.selector with loading := none, strobed := some codes } }) ∧
  (∀ (s : State) (e : ExerciserId) (i : LaneId) (n : Nat),
    (s.pool.owners[e] = none → s.laneOutput e i n = none) ∧
    ∀ g, s.pool.owners[e] = some g →
      (i.val ≥ g.lanes ∨ g.patternOn = false → s.laneOutput e i n = none) ∧
      (i.val < g.lanes → g.patternOn = true →
        (n < 23 → s.laneOutput e i n = some ((laneSeed i).getMsbD n)) ∧
        ∀ a b, s.laneOutput e i n = some a → s.laneOutput e i (n + 5) = some b → s.laneOutput e i (n + 23) = some (a ^^ b))) ∧
  (∀ (s : State) (e : ExerciserId) (i : LaneId) (g : Grant), s.pool.owners[e] = some g →
     let put (c : Checker) : State := { s with pool := { s.pool with
       owners := s.pool.owners.set e (some { g with checkers := g.checkers.set i c }) } }
     let c := g.checkers[i]
     (∀ bits ui, c.state = .search → bits = bitsOf (laneSeed i) →
       exec (.checkerMarkerFound e ⟨i, bits⟩ ui) s =
         .next (put { c with state := .proving 0, predictor := laneSeed i, position := 0, arrivals := [ui] })) ∧
     (∀ bits ui, c.state ≠ .search ∨ bits ≠ bitsOf (laneSeed i) → exec (.checkerMarkerFound e ⟨i, bits⟩ ui) s = .next s) ∧
     (c.inStep i →
       (∀ n, c.state = .proving n → n ≤ 64 → c.position + (64 - n) ≤ runBits →
         (∃ w, exec (.checkerLocked e ⟨i, c.expects i (64 - n)⟩) s =
             .next (put { c with state := .locked, predictor := w, position := c.position + (64 - n) }) ∧
           Checker.inStep { c with predictor := w, position := c.position + (64 - n) } i) ∧
         ∀ bits, bits ≠ c.expects i (64 - n) → exec (.checkerLocked e ⟨i, bits⟩) s = .next s) ∧
       (∀ n m last, c.state = .proving n → n + m < 64 → c.position + m < runBits →
         last ≠ expectedBit i (c.position + 23 + m) →
         ∃ w, exec (.laneCheckerError e ⟨i, c.expects i m ++ [last]⟩) s =
           .next (put { c with state := .search, arrivals := [], predictor := w, position := c.position + m })) ∧
       (c.state = .locked →
         (∀ ui, exec (.markerArrival e ⟨i, c.expects i (runBits - c.position)⟩ ui) s =
           .next (put { c with predictor := laneSeed i, position := 0, arrivals := ui :: c.arrivals })) ∧
         (∀ bits ui, bits ≠ c.expects i (runBits - c.position) → exec (.markerArrival e ⟨i, bits⟩ ui) s = .next s) ∧
         ∀ m last, c.position + m < runBits → last ≠ expectedBit i (c.position + 23 + m) →
           ∃ w, exec (.laneCheckerError e ⟨i, c.expects i m ++ [last]⟩) s = .next (put { c with
               predictor := w, position := c.position + m + 1
               errors := if g.phase = .soak ∧ c.errors < 65535 then c.errors + 1 else c.errors }) ∧
             Checker.inStep { c with predictor := w, position := c.position + m + 1 } i)) ∧
     (c.inStep i → ∀ bits : List Bool, c.position + bits.length ≤ runBits →
       (bits = c.expects i bits.length → exec (.laneCheckerError e ⟨i, bits⟩) s = .next s) ∧
       (bits ≠ c.expects i bits.length → ∀ last, exec (.laneCheckerError e ⟨i, bits ++ [last]⟩) s = .next s)) ∧
     (∀ bits, c.state = .search ∨ c.state = .stopped → exec (.laneCheckerError e ⟨i, bits⟩) s = .next s) ∧
     (∀ bits, (∀ n, c.state ≠ .proving n) → exec (.checkerLocked e ⟨i, bits⟩) s = .next s) ∧
     (∀ bits ui, c.state ≠ .locked → exec (.markerArrival e ⟨i, bits⟩ ui) s = .next s)) ∧
  (∀ (s : State) (e : ExerciserId) (bits : LaneBits) (ui : Nat), s.pool.owners[e] = none →
    exec (.checkerMarkerFound e bits ui) s = .next s ∧ exec (.checkerLocked e bits) s = .next s ∧
    exec (.markerArrival e bits ui) s = .next s ∧ exec (.laneCheckerError e bits) s = .next s) ∧
  laneSeed 0 = 0x4C3A91 ∧ laneSeed 1 = 0x1B7E05 ∧ laneSeed 2 = 0x62D4F8 ∧ laneSeed 3 = 0x35A06C

/-- The peer start timer expires in START (R129, R130): the first two stalls send the port to the tail of the wait queue and the
exerciser to its head; the third is PEER_STALL.
The model's choices it rests on: log 3, log 17 (the state a fault leads to outside the rows of R140), log 54 (what a port is before it takes
a notice of a type change). -/
def Obligations.PeerStartStall : Prop :=
  ∀ (s : State) (p : PortId) (e : ExerciserId) (g : Grant) (n : Nat), (s.ctx p).heldExerciser = some e →
    s.pool.owners[e] = some g → g.phase = .start → (s.port p).timers.peerStart = some n → n ≥ 4096 →
    ∃ t, exec (.peerStartExpiry p) s = .next t ∧ PortEvent p s t ∧
      ((s.ctx p).stallCount < 2 →
        (t.ctx p).stallCount = (s.ctx p).stallCount + 1 ∧ t.portState p = s.portState p ∧
        (s.pool.queue = [] →
          (t.ctx p).heldExerciser = some e ∧ t.pool.queue = [] ∧ (t.port p).timers.peerStart = some 0 ∧
          ∃ g', t.pool.owners[e] = some g' ∧ g'.port = p ∧ g'.phase = .start ∧ g'.phaseCount = 0) ∧
        (∀ q rest, s.pool.queue = q :: rest → q ≠ p →
          (t.ctx p).heldExerciser = none ∧ t.pool.queue = rest ++ [p] ∧ (t.port p).timers.peerStart = none ∧
          (t.port p).selectorCode = none ∧
          (t.ctx q).heldExerciser = some e ∧ (t.port q).timers.peerStart = some 0 ∧
          ∃ g', t.pool.owners[e] = some g' ∧ g'.port = q ∧ g'.lanes = (s.entry q).lanes ∧ g'.phase = .start)) ∧
      ((s.ctx p).stallCount = 2 →
        (t.ctx p).stallCount = 3 ∧ (t.ctx p).lastFault = .peerStall ∧ t.portState p = s.faultState p)

/-- The end of training (R131, R132): live lanes, the offsets of their markers nearest the reference, each clamped to 0 to 127, the skew and
the deskew, SKEW_CLAMPED, the exercise results, and SOAK with its length fixed.
The model's choices it rests on: log 3, and log 15 (of two markers equally near the reference either may be the one taken). -/
def Obligations.TrainingEnd : Prop :=
  ∀ (s : State) (p : PortId) (g : Grant), s.grantOf p = some g → g.phase = .training → g.phaseCount ≥ 8 →
    ∃ t r h, exec (.trainingEnd p) s = .next t ∧ PortEvent p s t ∧ t.portState p = s.portState p ∧
      (t.ctx p).results = some r ∧ t.grantOf p = some h ∧ maskHas t.page.dirty p = true ∧
      (∀ i : LaneId, r.live[i] = decide (i.val < g.lanes ∧ g.checkers[i].state = .locked)) ∧
      (∀ i : LaneId, r.errors[i] = 0) ∧
      (r.live[0] = false → r.skew = none ∧ r.deskew = none ∧
        (t.ctx p).hasFlag .skewClamped = (s.ctx p).hasFlag .skewClamped) ∧
      (r.live[0] = true → g.checkers[0].arrivals ≠ [] → (∃ k, r.skew = some k ∧ k ≤ 127) ∧
        ∃ d, r.deskew = some d ∧ ∀ i : LaneId, d[i] ≤ 127 ∧ (r.live[i] = false → d[i] = 0)) ∧
      (∀ ref rest, r.live[0] = true → g.checkers[0].arrivals = ref :: rest →
        (∀ i : LaneId, r.live[i] = true → g.checkers[i].arrivals ≠ []) →
        ∃ near offset : LaneId → Nat,
          (∀ i : LaneId, r.live[i] = true → near i ∈ g.checkers[i].arrivals ∧
            (∀ a ∈ g.checkers[i].arrivals, absDiff (near i) ref ≤ absDiff a ref) ∧
            offset i = if 64 + near i < ref then 0 else if 64 + near i - ref > 127 then 127 else 64 + near i - ref) ∧
          offset 0 = 64 ∧
          (∃ a b : LaneId, r.live[a] = true ∧ r.live[b] = true ∧
            (∀ i : LaneId, r.live[i] = true → offset b ≤ offset i ∧ offset i ≤ offset a) ∧
            r.skew = some (offset a - offset b) ∧
            ∃ d, r.deskew = some d ∧
              ∀ i : LaneId, (r.live[i] = true → d[i] = offset a - offset i) ∧ (r.live[i] = false → d[i] = 0)) ∧
          ((t.ctx p).hasFlag .skewClamped = true ↔ (s.ctx p).hasFlag .skewClamped = true ∨
            ∃ i : LaneId, r.live[i] = true ∧ (64 + near i < ref ∨ 64 + near i - ref > 127))) ∧
      h.phase = .soak ∧ h.phaseCount = 0 ∧ h.peerStop = 0 ∧ h.units = 0 ∧ h.soakLength = 512 * (s.entry p).soakUnits ∧
      ∀ i : LaneId, (r.live[i] = true → h.checkers[i].errors = 0) ∧ (r.live[i] = false → h.checkers[i].state = .stopped)

/-- The end of a soak unit (R133): one more whole unit, the live lanes' counts copied. The end of the soak (R133, R135), for a port that
holds its exerciser and waits in no queue: the counts copied, the exerciser returned, the window evaluated; a window that passes leads to
QUALIFIED, and on to HANDED exactly where R18 allows it with the effective word at that moment.
The model's choices it rests on: log 3, log 17 (the state a fault leads to outside the rows of R140), log 54 (what a port is before it takes
a notice of a type change). -/
def Obligations.SoakEnds : Prop :=
  (∀ (s : State) (p : PortId) (g : Grant) (r : ExerciseResults), s.grantOf p = some g → g.phase = .soak →
     g.phaseCount ≥ 512 * (g.units + 1) → (s.ctx p).results = some r →
     ∃ t r', exec (.soakUnitEnd p) s = .next t ∧ PortEvent p s t ∧
       t.grantOf p = some { g with units := if g.units < 255 then g.units + 1 else g.units } ∧
       t.ctx p = { s.ctx p with results := some r' } ∧ r'.live = r.live ∧ r'.skew = r.skew ∧ r'.deskew = r.deskew ∧
       (∀ i : LaneId, r'.errors[i] = if r.live[i] then g.checkers[i].errors else r.errors[i]) ∧
       maskHas t.page.dirty p = true) ∧
  ∀ (s : State) (p : PortId) (g : Grant) (r : ExerciseResults), s.grantOf p = some g → g.phase = .soak →
    g.phaseCount ≥ g.soakLength → (s.ctx p).results = some r → s.portState p = .exercise → p ∉ s.pool.queue →
    ∃ t, exec (.soakEnd p) s = .next t ∧ PortEvent p s t ∧ (t.ctx p).heldExerciser = none ∧
      SoakOver p g r (s.port p).framer.effective s t

/-! ### Port timers -/

/-- The expiries that fault (R12 to R14, R22): NO_LOCK, NO_GREETING, DELAY_UNSTABLE and LINK_LOST, each in its state alone; and the
waits of a PEER and a DELAY check (R115, R161, R162): unanswered, the check in flight ends with NO_REPLY, and PEER_NO_REPLY is set.
The model's choices it rests on: log 3, log 17 (the state a fault leads to outside the rows of R140). -/
def Obligations.TimerExpiries : Prop :=
  ((∀ (s : State) (p : PortId) (n : Nat), s.portState p = .listen → (s.port p).timers.lockSearch = some n → n ≥ 2048 →
     ∃ t, exec (.lockSearchExpiry p) s = .next t ∧ FaultTaken p .noLock s t) ∧
   (∀ (s : State) (p : PortId) (n : Nat), s.portState p = .greet → (s.port p).timers.greet = some n → n ≥ 1024 →
     ∃ t, exec (.greetTimerExpiry p) s = .next t ∧ FaultTaken p .noGreeting s t) ∧
   (∀ (s : State) (p : PortId) (n : Nat), s.portState p = .measure → (s.port p).timers.peerDelay = some n → n ≥ 512 →
     ∃ t, exec (.peerDelayWaitExpiry p) s = .next t ∧ FaultTaken p .delayUnstable s t) ∧
   ∀ (s : State) (p : PortId) (n : Nat), s.portState p = .qualified ∨ s.portState p = .handed →
     (s.port p).timers.lapse = some n → n ≥ 4096 →
     ∃ t, exec (.lapseExpiry p) s = .next t ∧ FaultTaken p .linkLost s t) ∧
  (∀ (s : State) (p : PortId) (c : InFlight), s.scan.inFlight = some c → c.port = p → c.kind = .peer → c.replyWait ≥ 512 →
    ∃ t, exec (.peerReplyWaitExpiry p) s = .next t ∧ PortEvent p s t ∧ t.scan.inFlight = none ∧
      t.ctx p = { s.ctx p with flags := (s.ctx p).flags ||| 0x4000, lastScanKind := some .peer, scanResult := .noReply,
                               scanPass := c.pass }) ∧
  ∀ (s : State) (p : PortId) (c : InFlight) (j : Job), s.scan.inFlight = some c → c.port = p → c.kind = .delay →
    (s.port p).meter.scanJob = some j → (s.port p).meter.scanWait ≥ 512 →
    ∃ t, exec (.scanWaitExpiry p) s = .next t ∧ PortEvent p s t ∧ t.scan.inFlight = none ∧
      (t.port p).meter.scanJob = none ∧
      t.ctx p = { s.ctx p with flags := (s.ctx p).flags ||| 0x4000, lastScanKind := some .delay, scanResult := .noReply,
                               scanPass := c.pass }

/-- The retry decision (R140), row by row, for every retryable fault; a HANDED port makes none while RUN is 0 (R26). A lock search that
expires in LISTEN is such a fault (R12). -/
def Obligations.RetryDecision : Prop :=
  (∀ (s : State) (p : PortId) (n : Nat), s.portState p = .listen → (s.port p).timers.lockSearch = some n → n ≥ 2048 →
    exec (.lockSearchExpiry p) s = .next (s.fault p .noLock)) ∧
  ∀ (s : State) (p : PortId) (code : FaultCode), ¬ (s.run = false ∧ s.portState p = .handed) →
    let t := s.fault p code
    (t.ctx p).retryCounter = (s.ctx p).retryCounter ∧ (t.ctx p).lastFault = code ∧ (t.port p).framer.tx = none ∧
      ((s.entry p).retryPolicy = .noRetry → t.portState p = .latched ∧ (t.ctx p).retryFull = (s.ctx p).retryFull) ∧
      ((s.entry p).retryPolicy = .unlimited → (s.ctx p).retryFull = false →
        t.portState p = .retryWait ∧ (t.ctx p).retryFull = false) ∧
      ((s.entry p).retryPolicy = .limited → (s.ctx p).retryCounter ≤ 14 → (s.ctx p).retryFull = false →
        t.portState p = .retryWait ∧ (t.ctx p).retryFull = false) ∧
      ((s.entry p).retryPolicy = .limited → (s.ctx p).retryCounter = 15 →
        t.portState p = .retryWait ∧ (t.ctx p).retryFull = true) ∧
      ((s.entry p).retryPolicy = .limited → (s.ctx p).retryCounter = 16 → (s.ctx p).retryFull = true →
        t.portState p = .latched ∧ (t.ctx p).retryFull = true)

/-- The retry period (R141): its length by class and RETRY_FULL, whichever way leads into RETRY_WAIT. -/
def Obligations.RetryPeriod : Prop :=
  ∀ (s : State) (p : PortId),
    let t := s.enterRetryWait p
    let cls := (s.entry p).retryClass.toNat
    let base := if cls = 0 then 8 else if cls = 1 then 32 else if cls = 2 then 128 else 512
    let length := if (s.ctx p).retryFull then 4 * base else base
    Entered p .retryWait s t ∧ (t.port p).timers.retryLength = some length ∧
      (t.port p).timers.retryRemaining = some length

/-- The end of the retry period (R142): the counter's step, then AWAIT_FAR.
The model's choices it rests on: log 3. -/
def Obligations.RetryPeriodEnd : Prop :=
  ∀ (s : State) (p : PortId), s.portState p = .retryWait → (s.port p).timers.retryRemaining = some 0 →
    ∃ t, exec (.retryPeriodEnd p) s = .next t ∧ Entered p .awaitFar s t ∧
      (t.ctx p).retryFull = (s.ctx p).retryFull ∧ (t.ctx p).lastFault = (s.ctx p).lastFault ∧
      ((s.entry p).retryPolicy = .limited → (s.ctx p).retryFull = false → (s.ctx p).retryCounter ≤ 14 →
        (t.ctx p).retryCounter = (s.ctx p).retryCounter + 1) ∧
      ((s.entry p).retryPolicy = .limited → (s.ctx p).retryFull = true → (t.ctx p).retryCounter = 16) ∧
      ((s.entry p).retryPolicy = .unlimited → (s.ctx p).retryFull = false →
        (t.ctx p).retryCounter = if (s.ctx p).retryCounter < 15 then (s.ctx p).retryCounter + 1 else (s.ctx p).retryCounter) ∧
      ((s.entry p).retryPolicy = .noRetry → (s.ctx p).retryFull = false →
        (t.ctx p).retryCounter = (s.ctx p).retryCounter)

/-- A plan-change notice (R42 to R45): the oldest is taken; a type change restarts, a change of retry policy or class moves LATCHED and
RETRY_WAIT, and a port with a stored verdict judges again by the checks of R46 to R50 (R24, R25, R49). In QUALIFIED and HANDED a port that
stays works READY out again (R16, R18) and compares its block-error budget (R23). A HANDED port under RUN 0 goes to DORMANT in place of any
other state. A leg that leaves RELAYING for MISWIRED discards the HELLOs that wait to be forwarded and counts each in its relay drop count
(R105).
The model's choices it rests on: log 17 (the state a fault leads to outside the rows of R140), log 18 (with a threshold of 0 nothing is
compared), log 19, log 20, log 31, log 54 (what a port is before it takes a notice of a type change). -/
def Obligations.PlanChangeNotice : Prop :=
  ∀ (s : State) (p : PortId) (n : Notice) (rest : List Notice), (s.port p).notices = n :: rest →
    ∃ t, exec (.planChangeNotice p) s = .next t ∧ PortEvent p s t ∧ (t.port p).notices = rest ∧
      (n.retryPolicy = true → (t.ctx p).retryCounter = 0 ∧ (t.ctx p).retryFull = false) ∧
      (n.typeChange = true → s.portState p ≠ .dormant → s.portState p ≠ .held →
        t.portState p = (if s.portState p = .handed ∧ s.run = false then .dormant
          else if maskHas s.debounced p then .seated else .vacant)) ∧
      (n.typeChange = true → s.portState p = .dormant ∨ s.portState p = .held → t.portState p = s.portState p) ∧
      (n.typeChange = false → s.portState p = .latched →
        t.portState p = (if n.retryPolicy then .retryWait else .latched) ∧ (t.ctx p).lastFault = (s.ctx p).lastFault) ∧
      (n.typeChange = false → s.portState p = .retryWait → n.retryPolicy = true ∨ n.retryClass = true →
        t.portState p = .retryWait ∧ (t.ctx p).stamp = s.ms ∧ (t.port p).timers.retryRemaining = (t.port p).timers.retryLength) ∧
      (n.typeChange = false → s.portState p = .exercise → (s.entry p).effective = .unplanned →
        (s.port p).framer.lock = .locked →
        t.portState p = .miswired ∧ (t.ctx p).lastVerdict = .unplanned ∧ (t.ctx p).miswiredStage = .greet) ∧
      (n.typeChange = false → s.portState p = .exercise ∨ s.portState p = .miswired ∨ s.portState p = .relaying →
        ReVerdict p (s.ctx p) s t ∧
          (s.portState p = .exercise → t.portState p ≠ .exercise → p ∉ s.pool.queue → (t.ctx p).heldExerciser = none)) ∧
      (n.typeChange = false → s.portState p = .qualified ∨ s.portState p = .handed →
        ∃ m, Checked (s.entry p) (s.ctx p) (s.ctx p).length m ∧ VerdictTaken p (s.ctx p) m false s t ∧
          (m.failed = true → t.portState p = s.verdictLeaves p false true ∧ (t.ctx p).armed = false ∧
            (t.port p).handover = false ∧
            (t.portState p = .miswired → (t.ctx p).miswiredStage =
              if m.unplanned = true ∨ m.wrongPeer = true ∨ m.mediaMismatch = true then .greet else .measure)) ∧
          (m.failed = false →
            let ready := !(s.ctx p).inhibited && ((s.entry p).policy == .auto || (s.ctx p).armed)
            let T := (s.entry p).threshold
            let offered : Prop := ∃ w, (s.port p).framer.effective = some w ∧ wordReady w = true ∧ (wordStage w = 8 ∨ wordStage w = 9)
            let spent : Prop := T > 0 ∧ (s.ctx p).windowCount > 4 * T
            (s.portState p = .qualified → (t.port p).ready = ready ∧
              ((s.port p).ready = false → ready = true → offered →
                t.portState p = .handed ∧ (t.ctx p).windowCount = 0 ∧ (t.port p).timers.blockWindow = some 0) ∧
              ((s.port p).ready = true ∨ ready = false ∨ ¬ offered → t.portState p = .qualified)) ∧
            (s.portState p = .handed → ¬ spent → t.portState p = .handed ∧ (t.port p).ready = ready ∧
              (T > 0 → (t.port p).degradedCause = decide ((s.ctx p).windowCount > T)) ∧
              (T > 0 → (s.ctx p).windowCount > T → (t.ctx p).hasFlag .degraded = true)) ∧
            (s.portState p = .handed → spent → (t.ctx p).lastFault = .linkErrors ∧ (t.ctx p).hasFlag .degraded = true ∧
              t.portState p = (if s.run = false then .dormant
                else match (s.entry p).retryPolicy with
                  | .noRetry => .latched
                  | .unlimited => .retryWait
                  | .limited => if n.retryPolicy = false ∧ (s.ctx p).retryCounter ≥ 16 then .latched else .retryWait)))) ∧
      (n.typeChange = false →
        s.portState p = .vacant ∨ s.portState p = .seated ∨ s.portState p = .awaitFar ∨ s.portState p = .listen ∨
          s.portState p = .greet ∨ s.portState p = .measure ∨ s.portState p = .dormant ∨ s.portState p = .held →
        t.portState p = s.portState p ∧ (t.ctx p).lastVerdict = (s.ctx p).lastVerdict)

/-! ### The walker -/

/-- The walker's reads. NUDGE, of any value, and the walk timer re-read the anchor's link in IDLE and nowhere else (R169); the judgement
of the link read and of the record read, and a read discarded because RUN was written 0 (R170 to R172).
The model's choices it rests on: log 9. -/
def Obligations.WalkerReads : Prop :=
  ((∀ (s : State) (v : Word) (n : Nat), s.walker = .idle n →
     exec (.nudge v) s = .next (if s.anchor = 0 then { s with walker := .idle 0 }
       else { s with walker := .fetching .link false }.markHeader)) ∧
   (∀ (s : State) (v : Word), (∀ n, s.walker ≠ .idle n) → exec (.nudge v) s = .next s) ∧
   ∀ (s : State) (n : Nat), s.walker = .idle n → n ≥ 1 →
     exec .walkTimerExpiry s = .next (if s.anchor = 0 then { s with walker := .idle 0 }
       else { s with walker := .fetching .link false }.markHeader)) ∧
  (∀ s : State, (∀ n, s.walker = .idle n → n < 1) → exec .walkTimerExpiry s = .next s) ∧
  (∀ (s : State) (link : Address),
     (s.walker = .fetching .link false → link = 0 →
       exec (.linkReadDone link) s = .next { s with walker := .idle 0 }.markHeader) ∧
     (s.walker = .fetching .link false → link.toNat % 64 ≠ 0 →
       ∃ t, exec (.linkReadDone link) s = .next t ∧ t.walker = .halted ∧ t.lastWorkFault = .badLink ∧
         t.summary = s.summary ||| 0x20 ∧ t.anchor = s.anchor ∧ t.ports = s.ports ∧ t.page.headerMark = true ∧
         t.page.stopped = s.page.stopped) ∧
     (s.walker = .fetching .link false → link ≠ 0 → link.toNat % 64 = 0 → link = s.anchor →
       ∃ t, exec (.linkReadDone link) s = .next t ∧ t.walker = .halted ∧ t.lastWorkFault = .staleLink ∧
         t.summary = s.summary ||| 0x20 ∧ t.anchor = s.anchor ∧ t.ports = s.ports ∧ t.page.headerMark = true) ∧
     (s.walker = .fetching .link false → link ≠ 0 → link.toNat % 64 = 0 → link ≠ s.anchor →
       exec (.linkReadDone link) s = .next { s with walker := .fetching (.record link) false }) ∧
     (s.walker = .fetching .link true → s.run = false →
       exec (.linkReadDone link) s = .next { s with walker := .stopped }.markHeader) ∧
     (s.walker = .fetching .link true → s.run = true →
       exec (.linkReadDone link) s = .next (if s.anchor = 0 then { s with walker := .idle 0 }.markHeader
         else { s with walker := .fetching .link false }))) ∧
  (∀ (s : State) (a : Address) (r : BitVec 512), s.walker = .fetching (.record a) true →
    (s.run = false → exec (.recordReadDone r) s = .next { s with walker := .stopped }.markHeader) ∧
    (s.run = true →
      exec (.recordReadDone r) s = .next (if s.anchor = 0 then { s with walker := .idle 0 }.markHeader
        else { s with walker := .fetching .link false }))) ∧
  ∀ (s : State) (a : Address) (r : BitVec 512), s.walker = .fetching (.record a) false →
    (r.extractLsb' 72 8 = 0 →
      exec (.recordReadDone r) s = .next { s with
        issued := s.issued ++ [.write (a + 9) [1]], walker := .fetching (.take a r) false }) ∧
    (r.extractLsb' 72 8 ≠ 0 →
      ∃ t, exec (.recordReadDone r) s = .next t ∧ t.walker = .halted ∧ t.lastWorkFault = .staleLink ∧
        t.summary = s.summary ||| 0x20 ∧ t.anchor = s.anchor ∧ t.ports = s.ports ∧ t.page.headerMark = true)

/-- The TAKEN write completes (R172, R173, R189): the record becomes the anchor. An order of one of the fifteen kinds, with a port mask in
range where it reads one, is in progress with the record's fields; any other is completed at once, and what the part writes into its
record is, in order, the outcome, the applied mask, the report bytes of a PLAN_PATCH, DONE, and then nothing but the interrupt where
ORDER_DONE makes the enabled set non-empty (R183). Nothing else changes.
The model's choices it rests on: log 9, and log 16 (the report bytes of a refused patch are free). -/
def Obligations.TakenWrite : Prop :=
  ∀ (s : State) (a : Address) (r : BitVec 512) (d : Bool), s.walker = .fetching (.take a r) d →
    let kind := (r.extractLsb' 64 8).toNat
    let notify := r.getLsbD 88
    let wide : Prop := (r.extractLsb' 128 32).toNat ≥ 2 ^ 24
    let readsMask : Prop := kind ∈ [2, 3, 4, 5, 6, 7, 8, 9, 10, 15]
    let sent : List Issued :=
      if notify = true ∧ s.summary &&& s.summaryEnable = 0 ∧ (s.summary ||| 1) &&& s.summaryEnable ≠ 0 ∧ s.irqEn = true ∧
          s.msi.enabled = true then [.interrupt s.msi.address s.msi.data]
      else []
    let kinds : List OrderKind := [.loadPlan, .planPatch, .restart, .hold, .release, .delatch, .clearRetries, .clearFlags, .handover,
      .withdraw, .watchSetup, .scanSetup, .scanStart, .scanStop, .report]
    ∃ t, exec .takenWriteDone s = .next t ∧ t.anchor = a ∧ t.page = { s.page with headerMark := true } ∧
      { t with anchor := s.anchor, walker := s.walker, page := s.page, issued := s.issued, summary := s.summary, free := s.free } = s ∧
      (1 ≤ kind → kind ≤ 15 → ¬ (readsMask ∧ wide) →
        ∃ o, t.walker = (if s.run then .acting o else .stopping o) ∧ kinds[kind - 1]? = some o.kind ∧ o.address = a ∧
          o.record = r ∧ o.notify = notify ∧ o.stage = .handed ∧ o.applied = 0 ∧
          (o.waiting = if 3 ≤ kind ∧ kind ≤ 10 then r.extractLsb' 128 24 else 0) ∧
          t.issued = s.issued ∧ t.summary = s.summary) ∧
      (kind = 0 ∨ 15 < kind →
        t.issued = s.issued ++ [.write (a + 10) [2], .write (a + 20) [0, 0, 0, 0], .write (a + 9) [2]] ++ sent) ∧
      (readsMask → kind ≠ 2 → wide →
        t.issued = s.issued ++ [.write (a + 10) [3], .write (a + 20) [0, 0, 0, 0], .write (a + 9) [2]] ++ sent) ∧
      (kind = 2 → wide →
        ∃ x y : Byte, t.issued = s.issued ++ [.write (a + 10) [3], .write (a + 20) [0, 0, 0, 0], .write (a + 56) [x, y],
          .write (a + 9) [2]] ++ sent) ∧
      (kind = 0 ∨ 15 < kind ∨ readsMask ∧ wide →
        t.summary = (if notify then s.summary ||| 1 else s.summary) ∧
          t.walker = if s.run = false then .stopped else if a = 0 then .idle 0 else .fetching .link false)

/-! ### Plans -/

/-- LOAD_PLAN and its header (R38): an address that is no multiple of 16 and a header that fails end in BAD_ARG with the plan in effect
unchanged; a header that passes is held. What the report bytes of a refused load hold is free (log 16). Each entry, and a template, is
validated field by field, and its clamps counted (R35, R36, R188). -/
def Obligations.LoadPlan : Prop :=
  (∀ (s : State) (o : Order), s.handed o → o.kind = .loadPlan →
    ((o.record.extractLsb' 192 64).toNat % 16 = 0 →
      exec .loadPlan s = .next { s with
        walker := s.walker.withOrder { o with stage := .working }, plan := { s.plan with load := some .header } }) ∧
    ((o.record.extractLsb' 192 64).toNat % 16 ≠ 0 →
      ∃ t x y, exec .loadPlan s = .next t ∧ OrderDone o 3 0 (some (x, y)) s t ∧ t.plan = s.plan ∧ t.ports = s.ports)) ∧
  (∀ (s : State) (o : Order) (h : BitVec 128), s.working o → o.kind = .loadPlan → s.plan.load = some .header →
    let b (n : Nat) : Nat := (h.extractLsb' (8 * n) 8).toNat
    let chassis := b 2 + 256 * b 3
    let good : Prop := b 0 = 0xC7 ∧ 1 ≤ b 1 ∧ 1 ≤ chassis ∧ chassis ≤ 65534 ∧ b 4 = 24
    (good → exec (.planHeaderReadDone h) s = .next { s with plan := { s.plan with
      load := some (.entries (BitVec.ofNat 16 chassis) (BitVec.ofNat 8 (b 1)) [] 0) } }) ∧
    (¬ good → ∃ t x y, exec (.planHeaderReadDone h) s = .next t ∧ OrderDone o 3 0 (some (x, y)) s t ∧
      t.plan = { s.plan with load := none } ∧ t.ports = s.ports)) ∧
  ∀ raw : BitVec 128, EntryRead raw (entryOf raw) (entryClamps raw)

/-- The entries of a load and its swap (R7, R37, R39, R40, R42).
The model's choices it rests on: log 20. -/
def Obligations.PlanSwap : Prop :=
  ∀ (s : State) (o : Order) (e : BitVec 128) (chassis : BitVec 16) (epoch : Byte) (shadow : List Entry) (clamps : Nat),
    s.working o → o.kind = .loadPlan → s.plan.load = some (.entries chassis epoch shadow clamps) →
    (shadow.length < 23 → exec (.planEntryReadDone e) s = .next { s with plan := { s.plan with
      load := some (.entries chassis epoch (shadow ++ [entryOf e]) (clamps + entryClamps e)) } }) ∧
    (shadow.length = 23 → ∃ t x, exec (.planEntryReadDone e) s = .next t ∧
      OrderDone o 1 0 (some (x, BitVec.ofNat 8 (clamps + entryClamps e))) s t ∧
      t.plan.chassis = chassis ∧ t.plan.epoch = epoch ∧ t.plan.inEffect = true ∧ t.plan.load = none ∧
      x.toNat = (allPorts.filter fun p => (t.entry p).broken.isSome).length ∧
      (∀ p, AfterPairing (fun q => (shadow ++ [entryOf e]).getD q.val defaultEntry) p (t.entry p)) ∧
      (∀ p, t.entry p = s.entry p → (t.port p).notices = (s.port p).notices) ∧
      (∀ p, t.entry p ≠ s.entry p → ∃ n, (t.port p).notices = (s.port p).notices ++ [n] ∧
        (n.retryPolicy = true ↔ (t.entry p).retryPolicy ≠ (s.entry p).retryPolicy) ∧
        (n.retryClass = true ↔ (t.entry p).retryClass ≠ (s.entry p).retryClass) ∧
        (n.typeChange = true ↔
          ((t.entry p).effective = .relay ∧ (s.entry p).effective ≠ .relay ∨
            (t.entry p).effective ≠ .relay ∧ (s.entry p).effective = .relay ∨
            (t.entry p).effective = .relay ∧ (s.entry p).effective = .relay ∧ (t.entry p).peerPort ≠ (s.entry p).peerPort))) ∧
      (∀ p, t.portState p =
        if s.portState p = .dormant ∧ s.plan.inEffect = false ∧ s.run = true then
          (if maskHas s.debounced p then .seated else .vacant)
        else s.portState p))

/-- PLAN_PATCH (R41): with no plan in effect BAD_STATE, with mask 0 no change, else every masked entry becomes the template and the
pairing check runs over all 24.
The model's choices it rests on: log 16 (report bytes are written in a refused order and at mask 0, and are free there), log 20 (notices
wait in order at the port), log 40 (mask 0 with no plan in effect). -/
def Obligations.PlanPatch : Prop :=
  ∀ (s : State) (o : Order), s.handed o → o.kind = .planPatch →
    let mask : PortMask := o.record.extractLsb' 128 24
    let template : BitVec 128 := o.record.extractLsb' 256 128
    (s.plan.inEffect = false →
      ∃ t x y, exec .planPatch s = .next t ∧ OrderDone o 4 0 (some (x, y)) s t ∧ t.plan = s.plan ∧ t.ports = s.ports) ∧
    (s.plan.inEffect = true → mask = 0 →
      ∃ t x y, exec .planPatch s = .next t ∧ OrderDone o 1 0 (some (x, y)) s t ∧ t.plan = s.plan ∧ t.ports = s.ports) ∧
    (s.plan.inEffect = true → mask ≠ 0 →
      ∃ t x, exec .planPatch s = .next t ∧
        OrderDone o 1 mask (some (x, BitVec.ofNat 8 (entryClamps template))) s t ∧
        x.toNat = (allPorts.filter fun p => (t.entry p).broken.isSome).length ∧
        t.plan.chassis = s.plan.chassis ∧ t.plan.epoch = s.plan.epoch ∧ t.plan.inEffect = true ∧
        (∀ p, AfterPairing (fun q => if maskHas mask q then entryOf template else s.entry q) p (t.entry p)) ∧
        (∀ p, t.portState p = s.portState p) ∧
        (∀ p, t.entry p = s.entry p → t.port p = s.port p) ∧
        ∀ p, t.entry p ≠ s.entry p → (t.port p).notices.length = (s.port p).notices.length + 1)

/-! ### Orders on ports -/

/-- The record of a mask order (R172 to R174): the ports that take it leave those that wait, the ports whose state admits it join the
applied mask, and with none left it completes OK. A port that does not take it, or whose state does not admit it, is left alone. A
CLEAR_FLAGS that names a flag outside the fifteen ends in BAD_ARG (R149).
The model's choices it rests on: log 7. -/
def Obligations.MaskOrders : Prop :=
  (∀ (s : State) (o : Order) (command : PortMask → Instr) (ports : PortMask), s.handed o → o.kind.command = some command →
    (o.kind = .clearFlags → (o.record.extractLsb' 256 32).toNat < 2 ^ 15) →
    ∃ (t : State) (o' : Order), exec (command ports) s = .next t ∧
      o' = { o with waiting := o'.waiting, applied := o'.applied } ∧
      (∀ p, maskHas o'.waiting p = true ↔ maskHas o.waiting p = true ∧ ¬ o.takes ports p) ∧
      (∀ p, maskHas o'.applied p = true ↔
        maskHas o.applied p = true ∨ o.takes ports p ∧ o.kind.appliesIn (s.portState p)) ∧
      (o'.waiting = 0 → OrderDone o 1 o'.applied none s t) ∧
      (o'.waiting ≠ 0 → t.walker = s.walker.withOrder o' ∧
        ∃ n, t.issued = s.issued ++ List.replicate n (.interrupt s.msi.address s.msi.data)) ∧
      ∀ p, ¬ (o.takes ports p ∧ o.kind.appliesIn (s.portState p)) → SameButGrant (s.port p) (t.port p)) ∧
  ∀ (s : State) (o : Order) (ports : PortMask), s.handed o → o.kind = .clearFlags →
    (o.record.extractLsb' 256 32).toNat ≥ 2 ^ 15 →
    ∃ t, exec (.clearFlags ports) s = .next t ∧ OrderDone o 3 0 none s t ∧ t.ports = s.ports

/-- Where HOLD, RELEASE, RESTART and DELATCH take a port that they apply to (R29 to R31, R144), and what it keeps; a HANDED port goes to
DORMANT while RUN is 0 (R32). A check in flight at such a port ends NOT_APPLICABLE, but a LINE check stays in flight where the port goes on
with its transmitter off in SEATED or AWAIT_FAR (R159 to R162), and a DELAY check whose SCAN job the turn-off of the transmitter ends is
ABANDONED (R117).
The model's choices it rests on: log 7, log 21 (the turn-off comes before the entry). -/
def Obligations.PortMoves : Prop :=
  ∀ (s : State) (o : Order) (command : PortMask → Instr) (ports : PortMask), s.handed o → o.kind.command = some command →
    o.kind = .hold ∨ o.kind = .release ∨ o.kind = .restart ∨ o.kind = .delatch →
    ∃ t, exec (command ports) s = .next t ∧
      ∀ p, o.takes ports p → o.kind.appliesIn (s.portState p) →
        let st : PortState :=
          if s.portState p = .handed ∧ s.run = false then .dormant
          else if o.kind = .hold then .held
          else if o.kind = .delatch then .awaitFar
          else if o.kind = .release ∧ ¬ (s.run = true ∧ s.plan.inEffect = true) then .dormant
          else if maskHas s.debounced p = true then .seated else .vacant
        t.portState p = st ∧ (t.ctx p).own = ((s.ctx p).entered st s.ms).own ∧ (t.port p).framer.tx = none ∧
          (t.port p).handover = false ∧
          ∀ c, s.scan.inFlight = some c → c.port = p →
            (c.kind = .line → st = .seated ∨ st = .awaitFar → t.scan = s.scan) ∧
            (c.kind = .line → st ≠ .seated → st ≠ .awaitFar → ScanGoesOn s t ∧ CheckEnded c .notApplicable s t) ∧
            (c.kind = .peer → ScanGoesOn s t ∧ CheckEnded c .notApplicable s t) ∧
            (c.kind = .delay → ScanGoesOn s t ∧ (t.port p).meter.scanJob = none ∧
              CheckEnded c (if (s.port p).framer.tx.isSome = true ∧ (s.port p).meter.scanJob.isSome = true then .abandoned
                else .notApplicable) s t)

/-- CLEAR_RETRIES and CLEAR_FLAGS at a port that takes them (R145, R149 to R151): the counter and RETRY_FULL; each selected flag unless
it is cause-bound and its cause is present; nothing else of the port.
The model's choices it rests on: log 7. -/
def Obligations.ClearOrders : Prop :=
  (∀ (s : State) (o : Order) (ports : PortMask), s.handed o → o.kind = .clearRetries →
    ∃ t, exec (.clearRetries ports) s = .next t ∧ ∀ p, o.takes ports p →
      t.port p = { s.port p with ctx := { s.ctx p with retryCounter := 0, retryFull := false } }) ∧
  ∀ (s : State) (o : Order) (ports : PortMask), s.handed o → o.kind = .clearFlags →
    (o.record.extractLsb' 256 32).toNat < 2 ^ 15 →
    ∃ t, exec (.clearFlags ports) s = .next t ∧ ∀ p, o.takes ports p →
      t.port p = { s.port p with ctx := { s.ctx p with flags := (t.ctx p).flags } } ∧
      (t.ctx p ≠ s.ctx p → maskHas t.page.dirty p = true) ∧
      ∀ f : Flag, (t.ctx p).hasFlag f =
        if o.record.getLsbD (256 + f.index) then
          (s.ctx p).hasFlag f && (match f with
            | .farOpen => (s.port p).farOpenCause
            | .lowSignal => (s.port p).onState.low
            | .missing => decide (s.portState p = .vacant ∧ (s.entry p).effective = .planned)
            | .degraded => (s.port p).degradedCause
            | _ => false)
        else (s.ctx p).hasFlag f

/-- HANDOVER and WITHDRAW at a port that they apply to (R18, R21).
The model's choices it rests on: log 7, log 54 (what a port is before it takes a notice of a type change). -/
def Obligations.HandoverOrders : Prop :=
  (∀ (s : State) (o : Order) (ports : PortMask), s.handed o → o.kind = .handover →
    ∃ t, exec (.handover ports) s = .next t ∧ ∀ p, o.takes ports p → s.portState p = .qualified →
      (t.ctx p).armed = true ∧ (t.ctx p).inhibited = false ∧ (t.port p).ready = true ∧
      ((∃ w, (s.port p).framer.effective = some w ∧ wordReady w = true ∧ (wordStage w = 8 ∨ wordStage w = 9)) →
        t.portState p = .handed ∧ (t.port p).handover = true) ∧
      ((¬ ∃ w, (s.port p).framer.effective = some w ∧ wordReady w = true ∧ (wordStage w = 8 ∨ wordStage w = 9)) →
        t.portState p = .qualified)) ∧
  ∀ (s : State) (o : Order) (ports : PortMask), s.handed o → o.kind = .withdraw →
    ∃ t, exec (.withdraw ports) s = .next t ∧ ∀ p, o.takes ports p →
      s.portState p = .qualified ∨ s.portState p = .handed →
      (t.ctx p).armed = false ∧ (t.ctx p).inhibited = true ∧ (t.port p).ready = false ∧
      t.portState p = (if s.portState p = .handed ∧ s.run = false then .dormant else .qualified) ∧
      (s.portState p = .handed → (t.port p).handover = false) ∧
      (t.ctx p).lastFault = (s.ctx p).lastFault ∧ (t.ctx p).retryCounter = (s.ctx p).retryCounter ∧
      (s.run = true ∨ s.portState p = .qualified → (t.port p).timers.lapse = (s.port p).timers.lapse)

/-! ### Scans -/

/-- SCAN_SETUP (R153, R154): the arguments checked and clamped, the scan stopped and the list cleared; each entry read; the install,
which waits for the check in flight.
The model's choices it rests on: log 16 (the report bytes of a refused setup are free), log 23 (the check's number), log 38 (an entry that
is invalid and marked skip counts as invalid). -/
def Obligations.ScanSetups : Prop :=
  (∀ (s : State) (o : Order), s.handed o → o.kind = .scanSetup →
    let b (n : Nat) : Nat := (o.record.extractLsb' (8 * n) 8).toNat
    let period := (o.record.extractLsb' 320 32).toNat
    let good : Prop := (o.record.extractLsb' 192 64).toNat % 4 = 0 ∧ 1 ≤ b 32 ∧ b 32 ≤ 64 ∧ b 33 ≤ 1 ∧ b 34 ≤ 2 ∧ b 35 ≤ 2
    (good → ∃ t x, exec .scanSetup s = .next t ∧ t.walker = s.walker.withOrder { o with stage := .working } ∧
      t.scan.setup = some x ∧ x.count = b 32 ∧ x.entries = [] ∧ x.invalid = 0 ∧
      x.mode = (if b 33 = 0 then .singlePass else .continuous) ∧
      x.start = (if b 34 = 0 then .order else if b 34 = 1 then .watchMatch else .immediate) ∧
      x.stop = (if b 35 = 0 then .order else if b 35 = 1 then .passes (if b 36 = 0 then 1 else b 36)
        else .eventThen (if b 36 > 63 then 63 else b 36)) ∧
      x.period = (if period = 0 then 1 else if period > 60000 then 60000 else period) ∧
      x.clamps = (if b 35 = 1 ∧ b 36 = 0 ∨ b 35 = 2 ∧ b 36 > 63 then 1 else 0) +
        (if period = 0 ∨ period > 60000 then 1 else 0) ∧
      t.scan.list = [] ∧ t.scan.pacerOn = false ∧ t.scan.inFlight = s.scan.inFlight ∧
      t.scan.state = (if s.scan.state = .idle ∨ s.scan.inFlight = none then .idle else .draining) ∧
      t.ports = s.ports ∧ t.issued = s.issued) ∧
    (¬ good → ∃ t x y, exec .scanSetup s = .next t ∧ OrderDone o 3 0 (some (x, y)) s t ∧ t.scan = s.scan ∧
      t.ports = s.ports)) ∧
  (∀ (s : State) (x : ScanSetup) (w : Word), s.scan.setup = some x → x.entries.length < x.count →
    let port := (w.extractLsb' 0 8).toNat
    let code := (w.extractLsb' 8 8).toNat
    let good : Prop := port ≤ 23 ∧ 1 ≤ code ∧ code ≤ 5
    ∃ e n, exec (.scanListEntryReadDone w) s = .next { s with scan := { s.scan with
        setup := some { x with entries := x.entries ++ [e], invalid := x.invalid + n } } } ∧
      (¬ good → e = .skip ∧ n = 1) ∧ (good → n = 0) ∧ (good → w.getLsbD 16 = true → e = .skip) ∧
      (good → w.getLsbD 16 = false → ∃ p k, e = .check p k ∧ p.val = port ∧ k.code = code)) ∧
  ∀ (s : State) (o : Order) (x : ScanSetup), s.working o → o.kind = .scanSetup → s.scan.setup = some x →
    x.count ≤ x.entries.length → s.scan.inFlight = none →
    ∃ t, exec .scanSetupInstall s = .next t ∧
      OrderDone o 1 0 (some (BitVec.ofNat 8 x.invalid, BitVec.ofNat 8 x.clamps)) s t ∧
      (x.start ≠ .immediate → t.ports = s.ports ∧ t.scan = { s.scan with
        list := x.entries, pointer := 0, state := .idle, mode := x.mode, start := x.start, stop := x.stop, period := x.period,
        pacerOn := false, elapsed := 0, passes := 0, overruns := 0, postStop := 0, setup := none }) ∧
      (x.start = .immediate → t.scan.list = x.entries ∧
        (∀ p k rest, x.entries = .check p k :: rest → FirstCheck p k s t) ∧
        (x.entries ≠ [] → ScanBegun { s with scan := { s.scan with
          list := x.entries, mode := x.mode, start := x.start, stop := x.stop, period := x.period } } t))

/-- SCAN_START and SCAN_STOP (R155, R158): with no list BAD_STATE; a running scan is not started again; a start sets the counts to 0, starts
the pacer, and takes the first entry at once, a check or a skip entry; a stop drains, or ends where no check is in flight.
The model's choices it rests on: log 23 (the check's number). -/
def Obligations.ScanStarts : Prop :=
  (∀ (s : State) (o : Order), s.handed o → o.kind = .scanStart →
    (s.scan.state = .idle → s.scan.list = [] →
      ∃ t, exec .scanStart s = .next t ∧ OrderDone o 4 0 none s t ∧ t.scan = s.scan ∧ t.ports = s.ports) ∧
    (s.scan.state ≠ .idle →
      ∃ t, exec .scanStart s = .next t ∧ OrderDone o 1 0 none s t ∧ t.scan = s.scan ∧ t.ports = s.ports) ∧
    (s.scan.state = .idle → s.scan.pointer = 0 → s.scan.inFlight = none →
      (∀ p k rest, s.scan.list = .check p k :: rest →
        ∃ t, exec .scanStart s = .next t ∧ OrderDone o 1 0 none s t ∧ FirstCheck p k s t) ∧
      (s.scan.setup = none → s.scan.list ≠ [] →
        ∃ t, exec .scanStart s = .next t ∧ OrderDone o 1 0 none s t ∧ ScanBegun s t ∧
          (∀ rest, s.scan.list = .skip :: rest → t.scan.inFlight = none ∧ t.scan.checkNo = s.scan.checkNo ∧ t.ports = s.ports)))) ∧
  ∀ (s : State) (o : Order), s.handed o → o.kind = .scanStop →
    ∃ t, exec .scanStop s = .next t ∧ OrderDone o 1 0 none s t ∧ t.ports = s.ports ∧
      t.scan = if s.scan.state = .idle then s.scan
        else if s.scan.inFlight = none then
          { s.scan with state := .idle, postStop := 0, pacerOn := false, elapsed := 0, pointer := 0 }
        else { s.scan with state := .draining, postStop := 0 }

/-- A pacer tick (R156): disregarded in DRAINING with nothing left, an overrun over a check in flight, a skip entry, or a check handed to
its port, which ends at once or stays in flight by its kind and the state of the port (R157, R159 to R164). A COUNTS check compares the
block-error budget in HANDED (R163), and the fault of a spent budget comes after its result is recorded.
The model's choices it rests on: log 3, log 17 (the state a fault leads to outside the rows of R140), log 23, log 52 (a single pass that stops a
drain leaves the unused post-stop count). -/
def Obligations.ScanTicks : Prop :=
  ∀ s : State, s.scan.state ≠ .idle → s.scan.pacerOn = true → s.scan.period ≤ s.scan.elapsed → s.scan.setup = none →
    let spent : Prop := s.scan.state = .draining ∧ s.scan.postStop = 0
    let x := { s.scan with elapsed := s.scan.elapsed - s.scan.period }
    (spent → exec .pacerTick s = .next { s with scan := x }) ∧
    (¬ spent → s.scan.inFlight.isSome = true →
      ∃ t, exec .pacerTick s = .next t ∧ t.scan = { x with overruns := satInc 255 s.scan.overruns } ∧ t.ports = s.ports ∧
        (s.scan.overruns < 255 → t.page.headerMark = true)) ∧
    (¬ spent → s.scan.inFlight = none → s.scan.list[s.scan.pointer]? = some .skip →
      ∃ t, exec .pacerTick s = .next t ∧ t.ports = s.ports ∧ t.scan.inFlight = none ∧ EntryTaken s t) ∧
    (¬ spent → s.scan.inFlight = none → ∀ p k, s.scan.list[s.scan.pointer]? = some (.check p k) →
      let result := s.checkResult p k
      (∀ r, result = some r → ¬ (k = .counts ∧ s.portState p = .handed ∧ s.budgetSpent p = true) →
        ∃ t, exec .pacerTick s = .next t ∧ t.scan.inFlight = none ∧ EntryTaken s t ∧ t.portState p = s.portState p ∧
          (t.ctx p).lastScanKind = some k ∧ (t.ctx p).scanResult = r ∧
          (t.ctx p).scanPass = (if s.scan.passes < 65535 then s.scan.passes + 1 else 65535) ∧
          maskHas t.page.dirty p = true ∧
          (k = .expect → r = .absentPlanned → (t.ctx p).hasFlag .missing = true) ∧
          (k = .counts → s.portState p = .handed → (s.entry p).threshold > 0 →
            (t.port p).degradedCause = decide ((s.ctx p).windowCount > (s.entry p).threshold) ∧
            ((s.ctx p).windowCount > (s.entry p).threshold → (t.ctx p).hasFlag .degraded = true))) ∧
      (k = .counts → s.portState p = .handed → (s.entry p).threshold > 0 →
        (s.ctx p).windowCount > 4 * (s.entry p).threshold →
        ∃ t, exec .pacerTick s = .next t ∧ t.scan.inFlight = none ∧ EntryTaken s t ∧
          (t.ctx p).lastScanKind = some .counts ∧ (t.ctx p).scanResult = .copied ∧
          (t.ctx p).scanPass = (if s.scan.passes < 65535 then s.scan.passes + 1 else 65535) ∧
          (t.ctx p).hasFlag .degraded = true ∧ (t.ctx p).lastFault = .linkErrors ∧ t.portState p = s.faultState p) ∧
      (result = none →
        ∃ t, exec .pacerTick s = .next t ∧ t.portState p = s.portState p ∧ t.ctx p = s.ctx p ∧
          t.scan.inFlight = some
            { index := s.scan.pointer, port := p, kind := k, pass := Nat.min 65535 (s.scan.passes + 1),
              number := s.scan.checkNo + 1, replyWait := 0 } ∧
          t.scan.pointer = s.scan.pointer ∧
          (k = .delay → (t.port p).meter.scanJob.isSome = true) ∧
          (k = .peer → ∃ m ∈ (t.port p).channel.queue, m.body = .hello .own true ∧ s.scan.checkNo + 1 ∈ m.purposes.scan)))

/-! ### Reports, errors and the page -/

/-- REPORT (R175, R193): refused unless the mask names one port and the address is a multiple of 64; captured in its step, all 128 bytes;
written whole, then the order completes.
The model's choices it rests on: log 6 (the write is issued at its end), log 25 (0 where the report gives no code for none), log 36 (the
places of bits that R193 lists without a number), log 37 (the type byte is the effective type). -/
def Obligations.Report : Prop :=
  (∀ (s : State) (o : Order), s.handed o → o.kind = .report →
    let mask : PortMask := o.record.extractLsb' 128 24
    let target : Address := o.record.extractLsb' 192 64
    (∀ p, mask = portBit p → target.toNat % 64 = 0 →
      ∃ bytes, exec .report s = .next { s with
          walker := s.walker.withOrder { o with stage := .reporting target p bytes } } ∧
        bytes.length = 128 ∧ bytes.take 4 = leBytes 4 s.ms.toNat ∧ (bytes.drop 4).take 60 = (s.ctx p).snapshotFields p ∧
        (bytes.drop 116).take 8 =
          leBytes 4 ((s.port p).timers.retryLength.getD 0) ++ leBytes 4 ((s.port p).timers.retryRemaining.getD 0) ∧
        SnapshotShows (s.ctx p) p ((bytes.drop 4).take 60) ∧ ReportShows s p (bytes.drop 64)) ∧
    (target.toNat % 64 ≠ 0 ∨ (∀ p, mask ≠ portBit p) →
      ∃ t, exec .report s = .next t ∧ OrderDone o 3 0 none s t ∧ t.ports = s.ports)) ∧
  ∀ (s : State) (o : Order) (target : Address) (p : PortId) (bytes : List Byte), s.walker.order? = some o →
    o.stage = .reporting target p bytes →
    ∃ t, exec .reportWriteDone s = .next t ∧
      OrderDone o 1 (portBit p) none { s with issued := s.issued ++ [.write target bytes] } t ∧ t.ports = s.ports

/-- A memory access error on an access under way, or on a write issued since cold reset (R176): the fault, HALTED, the page writer stopped
and the whole page marked. An order in progress ends: MEMORY_FAULT is written into its record, and nothing more, unless the error was
on a write to that record; a load leaves the plan as it was, a setup no list (R154), a report nothing, while an order that takes no time has
the effect that its command would have had, a mask order at every port that waits. A further error while a memory error has the walker
halted changes nothing.
The model's choices it rests on: logs 6, 8, 46 (an error while the TAKEN write is under way), 47 (the record of an order keeps its
address whatever ANCHOR holds) and 48 (the MEMORY_FAULT write comes before the WORK_FAULT interrupt). -/
def Obligations.MemoryError : Prop :=
  (∀ (s : State) (a : Access), AccessUnderWay s a → ¬ (s.walker = .halted ∧ s.lastWorkFault = .memory) →
    ∃ t, exec (.memoryAccessError a) s = .next t ∧ MemoryHalted s t ∧
      (s.walker.order? = none → t.ports = s.ports ∧ t.plan = s.plan ∧ t.scan = s.scan ∧
        ∃ n, t.issued = s.issued ++ List.replicate n (.interrupt s.msi.address s.msi.data)) ∧
      ∀ o, s.walker.order? = some o →
        (∃ n m, t.issued = s.issued ++ List.replicate n (.interrupt s.msi.address s.msi.data) ++
          (if a = .recordWrite o.address then [] else [.write (o.address + 10) [5]]) ++
          List.replicate m (.interrupt s.msi.address s.msi.data)) ∧
        (o.kind = .loadPlan → t.ports = s.ports ∧ t.plan = { s.plan with load := none } ∧ t.scan = s.scan) ∧
        (o.kind = .scanSetup → t.ports = s.ports ∧ t.plan = s.plan ∧ t.scan.list = [] ∧ t.scan.state = .idle ∧
          t.scan.pacerOn = false ∧ t.scan.setup = none ∧ t.scan.inFlight = s.scan.inFlight) ∧
        (o.kind = .report → t.ports = s.ports ∧ t.plan = s.plan ∧ t.scan = s.scan) ∧
        (∀ c, o.stage = .handed → o.kind.atOnce = some c → ∃ u, exec c s = .next u ∧ t.ports = u.ports ∧ t.plan = u.plan ∧
          t.scan = u.scan ∧ t.watch = u.watch ∧ t.samplePeriod = u.samplePeriod ∧ t.sampleElapsed = u.sampleElapsed ∧
          t.pool = u.pool ∧ t.reader = u.reader ∧ t.selector = u.selector) ∧
        (o.kind = .hold → o.stage = .handed → ∀ p, maskHas o.waiting p = true → s.run = true → t.portState p = .held)) ∧
  (∀ (s : State) (a : Access), s.walker = .halted → s.lastWorkFault = .memory → exec (.memoryAccessError a) s = .next s) ∧
  ∀ (s : State) (a : Access), ¬ AccessUnderWay s a → exec (.memoryAccessError a) s = .next s

/-- The page writer (R179 to R181): nothing while it is stopped, without a base, or with a write in progress; the header when it is marked
and was not the last item, else the lowest dirty port above the last one written, wrapping; the odd count and the fields, then the
even count. With no port dirty a marked header is written (log 35). The fields are laid out as R190 and R191 have it, their codes as
R192.
The model's choices it rests on: logs 6, 22 and 35, and log 53 (the header's own version count does not mark the header). -/
def Obligations.PageItems : Prop :=
  (∀ s : State, s.page.stopped = true ∨ s.pageBase = 0 ∨ s.page.busy.isSome = true → exec .pageItemWrite s = .next s) ∧
  (∀ s : State, s.page.stopped = false → s.pageBase ≠ 0 → s.page.busy = none →
    let raised (v : Word) : Word := if v.getLsbD 0 then v else v + 1
    (s.page.headerMark = true → s.page.lastWasHeader = false ∨ s.page.dirty = 0 →
      ∃ fields, fields.length = 60 ∧ fields.take 2 =
          [(if s.run then 1 else 0) + (if s.plan.inEffect then 2 else 0), s.plan.epoch] ∧ HeaderShows s fields ∧
        exec .pageItemWrite s = .next { s with
          issued := s.issued ++ [.write s.pageBase (leBytes 4 (raised s.page.headerVersion).toNat),
            .write (s.pageBase + 4) fields]
          page := { s.page with headerVersion := raised s.page.headerVersion, headerMark := false,
                                busy := some { item := .header, base := s.pageBase } } }) ∧
    (s.page.headerMark = false ∨ s.page.lastWasHeader = true → ∀ p, maskHas s.page.dirty p = true →
      (∀ l, s.page.lastPort = some l →
        (l < p ∧ ∀ q, l < q → q < p → maskHas s.page.dirty q = false) ∨
          ((∀ q, l < q → maskHas s.page.dirty q = false) ∧ ∀ q, q < p → maskHas s.page.dirty q = false)) →
      (s.page.lastPort = none → ∀ q, q < p → maskHas s.page.dirty q = false) →
      let a := s.pageBase + BitVec.ofNat 64 (64 * (p.val + 1))
      let v := raised s.page.versions[p]
      ((s.ctx p).snapshotFields p).length = 60 ∧ SnapshotShows (s.ctx p) p ((s.ctx p).snapshotFields p) ∧
        exec .pageItemWrite s = .next { s with
          issued := s.issued ++ [.write a (leBytes 4 v.toNat), .write (a + 4) ((s.ctx p).snapshotFields p)]
          page := { s.page with versions := s.page.versions.set p v, dirty := s.page.dirty &&& ~~~(portBit p),
                                busy := some { item := .snapshot p, base := s.pageBase } } }) ∧
    (s.page.headerMark = false → s.page.dirty = 0 → exec .pageItemWrite s = .next s)) ∧
  (∀ s : State,
    (∀ base, s.page.busy = some { item := .header, base := base } →
      exec .pageItemWriteDone s = .next { s with
        issued := s.issued ++ [.write base (leBytes 4 (s.page.headerVersion + 1).toNat)]
        page := { s.page with headerVersion := s.page.headerVersion + 1, lastWasHeader := true, busy := none } }) ∧
    ∀ base p, s.page.busy = some { item := .snapshot p, base := base } →
      exec .pageItemWriteDone s = .next { s with
        issued := s.issued ++ [.write (base + BitVec.ofNat 64 (64 * (p.val + 1))) (leBytes 4 (s.page.versions[p] + 1).toNat)]
        page := { s.page with versions := s.page.versions.set p (s.page.versions[p] + 1), lastPort := some p,
                              lastWasHeader := false, busy := none } }) ∧
  ([PortState.dormant, .vacant, .seated, .awaitFar, .listen, .greet, .measure, .exercise, .qualified, .handed, .miswired, .relaying,
      .retryWait, .latched, .held].map PortState.code = List.range 15 ∧
    [FaultCode.none, .noLock, .lockLost, .noGreeting, .channelFail, .delayUnstable, .peerStall, .errorRate, .skew, .linkLost,
      .peerWithdrew, .linkErrors, .short].map FaultCode.code = List.range 13 ∧
    [Verdict.none, .matched, .unplanned, .wrongPeer, .mediaMismatch, .lengthMismatch].map Verdict.code = List.range 6 ∧
    [Flag.farOpen, .lowSignal, .missing, .degraded, .cablePulled, .identMissing, .identCorrupt, .mediaUnverified, .lengthDisagrees,
      .lengthSat, .delayNegative, .epochDiffers, .skewClamped, .shortSoak, .peerNoReply].map Flag.index = List.range 15 ∧
    [ScanResult.none, .notApplicable, .terminated, .openLine, .short, .good, .low, .replied, .noReply, .abandoned, .length,
      .unstable, .copied, .absentPlanned, .absentUnplanned].map ScanResult.code = List.range 15)

/-! ### What every step keeps -/

/-- Every step keeps HANDOVER asserted in HANDED and in no other state (R18), and READY at 0 outside QUALIFIED and HANDED (R4, R16).
The model's choices it rests on: log 19 (READY is held as last worked out). -/
def Obligations.HandoverKept : Prop :=
  (∀ s t : State, HandoverInv s → step s = .next t → HandoverInv t) ∧
  ∀ s t : State, ReadyInv s → step s = .next t → ReadyInv t

/-- Every step keeps the transmitter off in the states that do not transmit (R3). -/
def Obligations.TransmitterKept : Prop :=
  ∀ s t : State, TransmitterInv s → step s = .next t → TransmitterInv t

/-- Every step keeps the lane selector code of a port at the exerciser that it holds (R121, R122, R124), and the Pool's owners and queue as
R121 and R123 have them, with its requests beside them: the premise of `WarmReset`. The requests are the model's own: R121 and R123 speak
of ports that ask, not of a set that holds them.
The model's choices it rests on: log 10 (a request waits in a set until the Pool takes it). -/
def Obligations.SelectorKept : Prop :=
  (∀ s t : State, SelectorInv s → step s = .next t → SelectorInv t) ∧
  ∀ s t : State, PoolInv s → step s = .next t → PoolInv t

/-- Every step keeps the anchor, the page base, and the record being fetched or acted on at multiples of 64 (R166, R170). -/
def Obligations.AlignedKept : Prop :=
  ∀ s t : State, AlignedInv s → step s = .next t → AlignedInv t

/-- What every step keeps holds right after reset. That no port has asked for an exerciser is the emptiness of the model's own requests,
which R120 does not list.
The model's choices it rests on: log 10 (the requests), log 19 (READY is held, 0 at reset), log 26 (the model's own fields are empty). -/
def Obligations.InvariantsAtReset : Prop :=
  HandoverInv State.reset ∧ ReadyInv State.reset ∧ TransmitterInv State.reset ∧ SelectorInv State.reset ∧
    AlignedInv State.reset ∧ PoolInv State.reset

end Statements
end

