-- ==== Sys2Proof/Laws/State.lean ====
section
/-! SUPPORT. One lemma for each field of State under each of the plain updates, so that no proof unfolds a record update. -/

namespace Sys2Proof.Machine

variable (s : State) (p q : PortId) (x : Port) (f : Port → Port)

/-! ### One port -/

@[simp] theorem port_setPort_same : (s.setPort p x).port p = x := by
  simp [State.port, State.setPort]

theorem port_setPort_ne (h : q ≠ p) : (s.setPort p x).port q = s.port q := by
  have hv : p.val ≠ q.val := fun e => h (Fin.ext e.symm)
  simp [State.port, State.setPort, Vector.getElem_set_ne, hv]

@[simp] theorem port_updPort_same : (s.updPort p f).port p = f (s.port p) := by simp [State.updPort]

theorem port_updPort_ne (h : q ≠ p) : (s.updPort p f).port q = s.port q := by
  simp [State.updPort, port_setPort_ne, h]

/-! ### `updPort` leaves everything but the ports -/

@[simp] theorem updPort_pending : (s.updPort p f).pending = s.pending := rfl
@[simp] theorem updPort_run : (s.updPort p f).run = s.run := rfl
@[simp] theorem updPort_irqEn : (s.updPort p f).irqEn = s.irqEn := rfl
@[simp] theorem updPort_anchor : (s.updPort p f).anchor = s.anchor := rfl
@[simp] theorem updPort_pageLow : (s.updPort p f).pageLow = s.pageLow := rfl
@[simp] theorem updPort_pageBase : (s.updPort p f).pageBase = s.pageBase := rfl
@[simp] theorem updPort_summary : (s.updPort p f).summary = s.summary := rfl
@[simp] theorem updPort_summaryEnable : (s.updPort p f).summaryEnable = s.summaryEnable := rfl
@[simp] theorem updPort_msi : (s.updPort p f).msi = s.msi := rfl
@[simp] theorem updPort_walker : (s.updPort p f).walker = s.walker := rfl
@[simp] theorem updPort_lastWorkFault : (s.updPort p f).lastWorkFault = s.lastWorkFault := rfl
@[simp] theorem updPort_page : (s.updPort p f).page = s.page := rfl
@[simp] theorem updPort_plan : (s.updPort p f).plan = s.plan := rfl
@[simp] theorem updPort_samplePeriod : (s.updPort p f).samplePeriod = s.samplePeriod := rfl
@[simp] theorem updPort_sampleElapsed : (s.updPort p f).sampleElapsed = s.sampleElapsed := rfl
@[simp] theorem updPort_raw : (s.updPort p f).raw = s.raw := rfl
@[simp] theorem updPort_debounced : (s.updPort p f).debounced = s.debounced := rfl
@[simp] theorem updPort_watch : (s.updPort p f).watch = s.watch := rfl
@[simp] theorem updPort_reader : (s.updPort p f).reader = s.reader := rfl
@[simp] theorem updPort_identityBus : (s.updPort p f).identityBus = s.identityBus := rfl
@[simp] theorem updPort_pool : (s.updPort p f).pool = s.pool := rfl
@[simp] theorem updPort_selector : (s.updPort p f).selector = s.selector := rfl
@[simp] theorem updPort_scan : (s.updPort p f).scan = s.scan := rfl
@[simp] theorem updPort_ms : (s.updPort p f).ms = s.ms := rfl
@[simp] theorem updPort_issued : (s.updPort p f).issued = s.issued := rfl
@[simp] theorem updPort_accessesFrom : (s.updPort p f).accessesFrom = s.accessesFrom := rfl
@[simp] theorem updPort_free : (s.updPort p f).free = s.free := rfl
@[simp] theorem updPort_entry : (s.updPort p f).entry q = s.entry q := rfl

/-! ### The marks touch the page writer alone -/

@[simp] theorem markDirty_ports : (s.markDirty p).ports = s.ports := rfl
@[simp] theorem markDirty_run : (s.markDirty p).run = s.run := rfl
@[simp] theorem markDirty_plan : (s.markDirty p).plan = s.plan := rfl
@[simp] theorem markDirty_pool : (s.markDirty p).pool = s.pool := rfl
@[simp] theorem markDirty_scan : (s.markDirty p).scan = s.scan := rfl
@[simp] theorem markDirty_reader : (s.markDirty p).reader = s.reader := rfl
@[simp] theorem markDirty_walker : (s.markDirty p).walker = s.walker := rfl
@[simp] theorem markDirty_port : (s.markDirty p).port q = s.port q := rfl
@[simp] theorem markDirty_entry : (s.markDirty p).entry q = s.entry q := rfl
@[simp] theorem markDirty_debounced : (s.markDirty p).debounced = s.debounced := rfl
@[simp] theorem markHeader_ports : s.markHeader.ports = s.ports := rfl
@[simp] theorem markHeader_run : s.markHeader.run = s.run := rfl
@[simp] theorem markHeader_plan : s.markHeader.plan = s.plan := rfl
@[simp] theorem markHeader_pool : s.markHeader.pool = s.pool := rfl
@[simp] theorem markHeader_scan : s.markHeader.scan = s.scan := rfl
@[simp] theorem markHeader_reader : s.markHeader.reader = s.reader := rfl
@[simp] theorem markHeader_walker : s.markHeader.walker = s.walker := rfl
@[simp] theorem markHeader_port : s.markHeader.port q = s.port q := rfl
@[simp] theorem markHeader_entry : s.markHeader.entry q = s.entry q := rfl
@[simp] theorem markHeader_debounced : s.markHeader.debounced = s.debounced := rfl

/-! ### SUMMARY and the interrupt -/

@[simp] theorem sendInterrupt_ports : s.sendInterrupt.ports = s.ports := by unfold State.sendInterrupt; split <;> rfl
@[simp] theorem sendInterrupt_summary : s.sendInterrupt.summary = s.summary := by unfold State.sendInterrupt; split <;> rfl

/-- How many interrupts an event that sets bit `b` sends (R183). -/
def interruptsOn (s : State) (b : SummaryBit) : Nat :=
  if (s.summary &&& s.summaryEnable) = 0 ∧ ((s.summary ||| b.mask) &&& s.summaryEnable) ≠ 0 ∧ s.irqEn ∧ s.msi.enabled then 1
  else 0

/-- Setting a SUMMARY bit changes SUMMARY and may issue one interrupt, nothing else (R182, R183). -/
theorem setSummary_eq (b : SummaryBit) :
    s.setSummary b =
      { s with summary := s.summary ||| b.mask,
               issued := s.issued ++ List.replicate (interruptsOn s b) (.interrupt s.msi.address s.msi.data) } := by
  unfold State.setSummary State.sendInterrupt State.enabledSummary interruptsOn
  cases s.irqEn <;> cases h4 : s.msi.enabled <;>
    by_cases h1 : (s.summary &&& s.summaryEnable) = 0#6 <;>
    by_cases h2 : ((s.summary ||| b.mask) &&& s.summaryEnable) = 0#6 <;>
    simp [h1, h2, h4]

@[simp] theorem setSummary_ports (b : SummaryBit) : (s.setSummary b).ports = s.ports := by rw [setSummary_eq]
@[simp] theorem setSummary_port (b : SummaryBit) : (s.setSummary b).port q = s.port q := by rw [setSummary_eq]; rfl
@[simp] theorem setSummary_run (b : SummaryBit) : (s.setSummary b).run = s.run := by rw [setSummary_eq]
@[simp] theorem setSummary_plan (b : SummaryBit) : (s.setSummary b).plan = s.plan := by rw [setSummary_eq]
@[simp] theorem setSummary_pool (b : SummaryBit) : (s.setSummary b).pool = s.pool := by rw [setSummary_eq]
@[simp] theorem setSummary_scan (b : SummaryBit) : (s.setSummary b).scan = s.scan := by rw [setSummary_eq]
@[simp] theorem setSummary_walker (b : SummaryBit) : (s.setSummary b).walker = s.walker := by rw [setSummary_eq]
@[simp] theorem setSummary_summary (b : SummaryBit) : (s.setSummary b).summary = s.summary ||| b.mask := by
  rw [setSummary_eq]

/-! ### The context of a port -/

variable (g : Context → Context)

/-- What `updCtx` does to the ports: the context of one port. -/
theorem port_updCtx_same : (s.updCtx p g).port p = { s.port p with ctx := g (s.ctx p) } := by
  unfold State.updCtx
  split
  · next h => rw [h]; rfl
  · simp [State.ctx]

theorem port_updCtx_ne (h : q ≠ p) : (s.updCtx p g).port q = s.port q := by
  unfold State.updCtx
  split
  · rfl
  · simp [port_updPort_ne, h]

@[simp] theorem ctx_updCtx_same : (s.updCtx p g).ctx p = g (s.ctx p) := by simp [State.ctx, port_updCtx_same]
@[simp] theorem updCtx_run : (s.updCtx p g).run = s.run := by unfold State.updCtx; split <;> rfl
@[simp] theorem updCtx_plan : (s.updCtx p g).plan = s.plan := by unfold State.updCtx; split <;> rfl
@[simp] theorem updCtx_pool : (s.updCtx p g).pool = s.pool := by unfold State.updCtx; split <;> rfl
@[simp] theorem updCtx_scan : (s.updCtx p g).scan = s.scan := by unfold State.updCtx; split <;> rfl
@[simp] theorem updCtx_walker : (s.updCtx p g).walker = s.walker := by unfold State.updCtx; split <;> rfl
@[simp] theorem updCtx_debounced : (s.updCtx p g).debounced = s.debounced := by unfold State.updCtx; split <;> rfl
@[simp] theorem updCtx_entry : (s.updCtx p g).entry q = s.entry q := by unfold State.updCtx; split <;> rfl
@[simp] theorem updCtx_portState_of_keeps (h : (g (s.ctx p)).state = (s.ctx p).state) :
    (s.updCtx p g).portState p = s.portState p := by simp [State.portState, h]

end Sys2Proof.Machine
end

