-- ==== Sys2Proof/Laws/Frame.lean ====
section
/-! SUPPORT. What each shared operation leaves alone: one lemma for each, chained on the frame so far, so that a proof about a
command reads off its frame without unfolding an operation. -/

namespace Sys2Proof.Machine

/-! ### The frame relations are preorders -/

theorem SameHost.refl (s : State) : SameHost s s where
  pending := rfl
  run := rfl
  irqEn := rfl
  anchor := rfl
  pageLow := rfl
  pageBase := rfl
  summary := BitVec.and_self
  summaryEnable := rfl
  msi := rfl
  walker := rfl
  lastWorkFault := rfl
  dirty := BitVec.and_self
  headerMark := id
  page := rfl
  plan := rfl
  samplePeriod := rfl
  sampleElapsed := rfl
  raw := rfl
  debounced := rfl
  watch := rfl
  ms := rfl
  free := rfl
  identityBus := rfl
  accessesFrom := rfl
  issued := ⟨0, by simp⟩

theorem and_chain {w : Nat} {a b c : BitVec w} (h1 : a &&& b = a) (h2 : b &&& c = b) : a &&& c = a := by
  rw [← h1, BitVec.and_assoc, h2]

theorem SameHost.trans {s t u : State} (h : SameHost s t) (k : SameHost t u) : SameHost s u where
  pending := k.pending.trans h.pending
  run := k.run.trans h.run
  irqEn := k.irqEn.trans h.irqEn
  anchor := k.anchor.trans h.anchor
  pageLow := k.pageLow.trans h.pageLow
  pageBase := k.pageBase.trans h.pageBase
  summary := and_chain h.summary k.summary
  summaryEnable := k.summaryEnable.trans h.summaryEnable
  msi := k.msi.trans h.msi
  walker := k.walker.trans h.walker
  lastWorkFault := k.lastWorkFault.trans h.lastWorkFault
  dirty := and_chain h.dirty k.dirty
  headerMark := k.headerMark ∘ h.headerMark
  page := by
    have h1 := h.page
    rw [← k.page] at h1
    exact h1
  plan := k.plan.trans h.plan
  samplePeriod := k.samplePeriod.trans h.samplePeriod
  sampleElapsed := k.sampleElapsed.trans h.sampleElapsed
  raw := k.raw.trans h.raw
  debounced := k.debounced.trans h.debounced
  watch := k.watch.trans h.watch
  ms := k.ms.trans h.ms
  free := k.free.trans h.free
  identityBus := k.identityBus.trans h.identityBus
  accessesFrom := k.accessesFrom.trans h.accessesFrom
  issued := by
    obtain ⟨n, hn⟩ := h.issued
    obtain ⟨m, hm⟩ := k.issued
    refine ⟨n + m, ?_⟩
    rw [hm, hn, h.msi, List.append_assoc, List.replicate_append_replicate]

theorem SameButGrant.refl (x : Port) : SameButGrant x x := rfl

theorem SameButGrant.trans {x y z : Port} (h : SameButGrant x y) (k : SameButGrant y z) : SameButGrant x z :=
  Eq.trans k h

variable {p q : PortId} {s t u : State}

theorem PortEvent.refl : PortEvent p s s := ⟨SameHost.refl s, fun _ _ => SameButGrant.refl _⟩

theorem PortEvent.trans (h : PortEvent p s t) (k : PortEvent p t u) : PortEvent p s u :=
  ⟨h.1.trans k.1, fun q hq => (h.2 q hq).trans (k.2 q hq)⟩

theorem PortEvent.ite {c : Prop} [Decidable c] {a b : State} (ha : PortEvent p s a) (hb : PortEvent p s b) :
    PortEvent p s (if c then a else b) := by
  split
  · exact ha
  · exact hb

/-! ### Primitive updates -/

theorem SameHost.ofPorts (v : Vector Port 24) : SameHost s { s with ports := v } := { SameHost.refl s with }
theorem SameHost.ofScan (x : Scheduler) : SameHost s { s with scan := x } := { SameHost.refl s with }
theorem SameHost.ofPool (x : Pool) : SameHost s { s with pool := x } := { SameHost.refl s with }
theorem SameHost.ofReader (x : IdentityReader) : SameHost s { s with reader := x } := { SameHost.refl s with }
theorem SameHost.ofSelector (x : Selector) : SameHost s { s with selector := x } := { SameHost.refl s with }

theorem and_or_self {w : Nat} (a b : BitVec w) : a &&& (a ||| b) = a := by
  ext i hi
  simp
  exact Or.inl

theorem SameHost.ofMarkDirty : SameHost s (s.markDirty p) :=
  { SameHost.refl s with dirty := and_or_self _ _, headerMark := id, page := rfl }

theorem SameHost.ofMarkHeader : SameHost s s.markHeader :=
  { SameHost.refl s with headerMark := fun _ => rfl, page := rfl }

theorem SameHost.ofSetSummary (b : SummaryBit) : SameHost s (s.setSummary b) := by
  rw [setSummary_eq]
  exact { SameHost.refl s with summary := and_or_self _ _, issued := ⟨_, rfl⟩ }

theorem PortEvent.updPort (h : PortEvent p s t) (f : Port → Port) : PortEvent p s (t.updPort p f) :=
  h.trans ⟨SameHost.ofPorts _, fun q hq => by rw [port_updPort_ne _ _ _ _ hq]; exact .refl _⟩

theorem PortEvent.scan (h : PortEvent p s t) (x : Scheduler) : PortEvent p s { t with scan := x } :=
  h.trans ⟨SameHost.ofScan x, fun _ _ => .refl _⟩

theorem PortEvent.pool (h : PortEvent p s t) (x : Pool) : PortEvent p s { t with pool := x } :=
  h.trans ⟨SameHost.ofPool x, fun _ _ => .refl _⟩

theorem PortEvent.reader (h : PortEvent p s t) (x : IdentityReader) : PortEvent p s { t with reader := x } :=
  h.trans ⟨SameHost.ofReader x, fun _ _ => .refl _⟩

theorem PortEvent.selector (h : PortEvent p s t) (x : Selector) : PortEvent p s { t with selector := x } :=
  h.trans ⟨SameHost.ofSelector x, fun _ _ => .refl _⟩

theorem PortEvent.markDirty (h : PortEvent p s t) (q : PortId) : PortEvent p s (t.markDirty q) :=
  h.trans ⟨SameHost.ofMarkDirty, fun _ _ => .refl _⟩

theorem PortEvent.markHeader (h : PortEvent p s t) : PortEvent p s t.markHeader :=
  h.trans ⟨SameHost.ofMarkHeader, fun _ _ => .refl _⟩

theorem PortEvent.setSummary (h : PortEvent p s t) (b : SummaryBit) : PortEvent p s (t.setSummary b) :=
  h.trans ⟨SameHost.ofSetSummary b, fun q _ => by rw [setSummary_port]; exact .refl _⟩

theorem PortEvent.updCtx (h : PortEvent p s t) (f : Context → Context) : PortEvent p s (t.updCtx p f) := by
  unfold State.updCtx
  split
  · exact h
  · exact (h.updPort _).markDirty p

/-- What a grant touches at any port. -/
theorem PortEvent.grantPart (h : PortEvent p s t) (f : Port → Port) (hf : ∀ x, SameButGrant x (f x)) :
    PortEvent p s (t.updPort q f) := by
  by_cases e : q = p
  · subst e; exact h.updPort f
  · refine h.trans ⟨SameHost.ofPorts _, fun r _ => ?_⟩
    by_cases er : r = q
    · subst er; rw [port_updPort_same]; exact hf _
    · rw [port_updPort_ne _ _ _ _ er]; exact .refl _

/-! ### Flags, Scheduler -/

theorem PortEvent.setFlag (h : PortEvent p s t) (f : Flag) : PortEvent p s (t.setFlag p f) := h.updCtx _

theorem PortEvent.setFlagIf (h : PortEvent p s t) (b : Bool) (f : Flag) : PortEvent p s (t.setFlagIf b p f) := by
  unfold State.setFlagIf
  split
  · exact h.setFlag f
  · exact h

theorem PortEvent.setScan (h : PortEvent p s t) (x : Scheduler) : PortEvent p s (t.setScan x) := by
  unfold State.setScan
  split
  · exact h.scan x
  · exact (h.scan x).markHeader

theorem PortEvent.scanDrainTest (h : PortEvent p s t) : PortEvent p s t.scanDrainTest := by
  unfold State.scanDrainTest
  split
  · exact h.setScan _
  · exact h

theorem PortEvent.passComplete (h : PortEvent p s t) : PortEvent p s t.passComplete := by
  unfold State.passComplete
  dsimp only
  split
  · exact ((h.setScan _).setSummary _).setScan _
  · exact (h.setScan _).setSummary _

theorem PortEvent.advancePointer (h : PortEvent p s t) : PortEvent p s t.advancePointer := by
  unfold State.advancePointer
  split
  · exact h
  · split
    · exact h.setScan _
    · exact h.passComplete

/-- The end of a check in flight on the port. -/
theorem PortEvent.endCheck (h : PortEvent p s t) (r : ScanResult) (hc : ∀ c, t.scan.inFlight = some c → c.port = p) :
    PortEvent p s (t.endCheck r) := by
  unfold State.endCheck
  split
  · exact h
  · next c hf =>
    have hp := hc c hf
    subst hp
    exact (((h.updCtx _).markDirty _).scan _).advancePointer.scanDrainTest

theorem checking_port {k : ScanKind} (hk : t.checking p k = true) {c : InFlight} (hc : t.scan.inFlight = some c) :
    c.port = p := by
  simp [State.checking, hc] at hk
  exact hk.1

theorem PortEvent.endCheckOn (h : PortEvent p s t) (k : ScanKind) (r : ScanResult) : PortEvent p s (t.endCheckOn p k r) := by
  unfold State.endCheckOn
  split
  · next hk => exact h.endCheck r fun _ hc => checking_port hk hc
  · exact h

theorem PortEvent.endUnanswered (h : PortEvent p s t) (k : ScanKind) : PortEvent p s (t.endUnanswered p k) := by
  unfold State.endUnanswered
  split
  · next hk =>
    refine (h.setFlag _).endCheck _ fun c hc => ?_
    rw [State.setFlag, updCtx_scan] at hc
    exact checking_port hk hc
  · exact h

/-! ### Pool and Identity Reader -/

theorem PortEvent.setSelector (h : PortEvent p s t) (q : PortId) (c : Option ExerciserId) :
    PortEvent p s (t.setSelector q c) := by
  unfold State.setSelector
  split
  · exact h
  · refine (h.grantPart (q := q) _ ?_).selector _
    exact fun _ => rfl

theorem PortEvent.grantCtx (h : PortEvent p s t) (q : PortId) (e : Option ExerciserId) :
    PortEvent p s (t.updCtx q fun x => { x with heldExerciser := e }) := by
  unfold State.updCtx
  split
  · exact h
  · refine (h.grantPart (q := q) _ ?_).markDirty q
    exact fun _ => rfl

theorem PortEvent.setOwner (h : PortEvent p s t) (e : ExerciserId) (g : Option Grant) : PortEvent p s (t.setOwner e g) :=
  h.pool _

theorem PortEvent.grantExerciser (h : PortEvent p s t) (e : ExerciserId) (q : PortId) :
    PortEvent p s (t.grantExerciser e q) := by
  unfold State.grantExerciser
  refine ((((h.setOwner _ _).markHeader).setSelector q _).grantCtx q _).grantPart _ ?_
  exact fun _ => rfl

theorem PortEvent.dropGrant (h : PortEvent p s t) (e : ExerciserId) (q : PortId) : PortEvent p s (t.dropGrant e q) := by
  unfold State.dropGrant
  refine ((((h.setOwner _ _).markHeader).grantCtx q _).grantPart _ ?_).setSelector q _
  exact fun _ => rfl

theorem PortEvent.setWaitQueue (h : PortEvent p s t) (l : List PortId) : PortEvent p s (t.setWaitQueue l) :=
  (h.pool _).markHeader

theorem PortEvent.disposeExerciser (h : PortEvent p s t) (e : ExerciserId) : PortEvent p s (t.disposeExerciser e) := by
  unfold State.disposeExerciser
  split
  · exact h
  · exact (h.setWaitQueue _).grantExerciser _ _

theorem PortEvent.leaveWaitQueue (h : PortEvent p s t) (q : PortId) : PortEvent p s (t.leaveWaitQueue q) := by
  unfold State.leaveWaitQueue
  dsimp only
  split
  · exact (h.pool _).setWaitQueue _
  · exact h.pool _

theorem PortEvent.giveBack (h : PortEvent p s t) (q : PortId) : PortEvent p s (t.giveBack q) := by
  unfold State.giveBack
  split
  · exact (h.dropGrant _ _).disposeExerciser _
  · exact h.leaveWaitQueue q

theorem PortEvent.requeue (h : PortEvent p s t) (e : ExerciserId) (q : PortId) : PortEvent p s (t.requeue e q) := by
  unfold State.requeue
  exact ((h.dropGrant e q).setWaitQueue _).disposeExerciser e

theorem PortEvent.takeRequest (h : PortEvent p s t) (q : PortId) : PortEvent p s (t.takeRequest q) := by
  unfold State.takeRequest
  dsimp only
  split
  · exact (h.pool _).grantExerciser _ _
  · exact (h.pool _).setWaitQueue _

theorem PortEvent.updGrant (h : PortEvent p s t) (q : PortId) (f : Grant → Grant) : PortEvent p s (t.updGrant q f) := by
  unfold State.updGrant
  split
  · exact h.pool _
  · exact h

theorem PortEvent.setIdentityQueue (h : PortEvent p s t) (l : List PortId) : PortEvent p s (t.setIdentityQueue l) :=
  (h.reader _).markHeader

theorem PortEvent.leaveIdentity (h : PortEvent p s t) (q : PortId) : PortEvent p s (t.leaveIdentity q) := by
  have hq : PortEvent p s (if q ∈ t.reader.queue then t.setIdentityQueue (t.reader.queue.filter (· != q)) else t) := by
    split
    · exact h.setIdentityQueue _
    · exact h
  unfold State.leaveIdentity
  dsimp only
  split
  · split
    · exact hq.reader _
    · exact hq
  · exact hq

/-! ### Channel and meter -/

theorem PortEvent.queueMessage (h : PortEvent p s t) (m : Message) : PortEvent p s (t.queueMessage p m) := h.updPort _

theorem PortEvent.updMeter (h : PortEvent p s t) (f : Meter → Meter) : PortEvent p s (t.updMeter p f) := h.updPort _

theorem PortEvent.updTimers (h : PortEvent p s t) (f : Timers → Timers) : PortEvent p s (t.updTimers p f) := h.updPort _

theorem PortEvent.meterClear (h : PortEvent p s t) : PortEvent p s (t.meterClear p) := by
  unfold State.meterClear
  dsimp only
  split
  · exact (h.updMeter _).endCheckOn _ _
  · exact h.updMeter _

theorem PortEvent.startJob (h : PortEvent p s t) (k : JobKind) : PortEvent p s (t.startJob p k) := by
  unfold State.startJob
  dsimp only
  split
  · exact h.updMeter _
  · split
    · exact (h.updMeter _).endCheckOn _ _
    · exact h.updMeter _

theorem PortEvent.measurementStable (h : PortEvent p s t) (l : Nat) : PortEvent p s (t.measurementStable p l) :=
  (h.updMeter _).queueMessage _

theorem PortEvent.storeLength (h : PortEvent p s t) (own : Nat) (r : DelayRecord) : PortEvent p s (t.storeLength p own r) := by
  unfold State.storeLength
  exact ((((h.updMeter _).setFlagIf _ _).setFlagIf _ _).updCtx _).setFlagIf _ _

/-! ### State entries -/

theorem PortEvent.turnOff (h : PortEvent p s t) : PortEvent p s (t.turnOff p) := (h.updPort _).meterClear

theorem PortEvent.turnOn (h : PortEvent p s t) : PortEvent p s (t.turnOn p) := h.updPort _

theorem PortEvent.leave (h : PortEvent p s t) (st : PortState) : PortEvent p s (t.leave p st) := by
  have h1 : PortEvent p s (if t.portState p = .handed then t.updPort p Port.handoverOff else t) := by
    split
    · exact h.updPort _
    · exact h
  have h2 : ∀ u, PortEvent p s u →
      PortEvent p s (if (u.port p).framer.tx.isSome && !st.transmits then u.turnOff p else u) := by
    intro u hu
    split
    · exact hu.turnOff
    · exact hu
  unfold State.leave
  exact (h2 _ ((h1.giveBack p).leaveIdentity p)).updPort _

theorem PortEvent.recordEntry (h : PortEvent p s t) (st : PortState) : PortEvent p s (t.recordEntry p st) :=
  ((h.updPort _).markDirty p).setSummary _

theorem PortEvent.dropForwarded (h : PortEvent p s t) : PortEvent p s (t.dropForwarded p) := by
  unfold State.dropForwarded
  exact (h.updPort _).updCtx _

theorem PortEvent.checkOnEntry (h : PortEvent p s t) (st : PortState) : PortEvent p s (t.checkOnEntry p st) := by
  unfold State.checkOnEntry
  split
  · exact h
  · next c hf =>
    split
    · exact h
    · next hp =>
      have hc : ∀ d, t.scan.inFlight = some d → d.port = p := by
        intro d hd
        rw [hf] at hd
        cases hd
        exact Classical.not_not.mp hp
      split
      · split
        · exact h.endCheck _ hc
        · split
          · exact h
          · exact h.endCheck _ hc
      · split
        · exact h
        · exact h.endCheck _ hc
      · split
        · exact h
        · exact (h.updMeter _).endCheck _ hc
      · exact h.endCheck _ hc

theorem PortEvent.enter (h : PortEvent p s t) (st : PortState) : PortEvent p s (t.enter p st) := by
  have h1 := (((h.leave st).recordEntry st).checkOnEntry st).updMeter (fun m => m.endJobsOutside st)
  unfold State.enter
  dsimp only
  split
  · exact h1.dropForwarded
  · exact h1

theorem PortEvent.joinIdentityQueue (h : PortEvent p s t) (q : PortId) : PortEvent p s (t.joinIdentityQueue q) :=
  h.setIdentityQueue _

theorem PortEvent.enterSeated (h : PortEvent p s t) : PortEvent p s (t.enterSeated p) := (h.enter _).joinIdentityQueue p

theorem PortEvent.enterGreet (h : PortEvent p s t) : PortEvent p s (t.enterGreet p) :=
  ((h.enter _).updPort _).queueMessage _

theorem PortEvent.enterRelaying (h : PortEvent p s t) : PortEvent p s (t.enterRelaying p) := (h.enter _).startJob _

theorem PortEvent.lockInListen (h : PortEvent p s t) : PortEvent p s (t.lockInListen p) := by
  unfold State.lockInListen
  split
  · exact h.enterRelaying
  · exact h.enterGreet

theorem PortEvent.enterListen (h : PortEvent p s t) : PortEvent p s (t.enterListen p) := by
  have h1 := ((h.enter .listen).updCtx Context.listening).meterClear.updTimers fun t => { t with lockSearch := some 0 }
  unfold State.enterListen
  dsimp only
  split
  · split
    · exact h1.lockInListen
    · exact h1
  · split
    · exact h1.turnOn.lockInListen
    · exact h1.turnOn

theorem PortEvent.enterMeasure (h : PortEvent p s t) : PortEvent p s (t.enterMeasure p) :=
  ((h.enter _).updTimers _).startJob _

theorem PortEvent.enterExercise (h : PortEvent p s t) : PortEvent p s (t.enterExercise p) := (h.enter _).pool _

theorem PortEvent.setReady (h : PortEvent p s t) : PortEvent p s (t.setReady p) := h.updPort _

theorem PortEvent.enterHanded (h : PortEvent p s t) : PortEvent p s (t.enterHanded p) := by
  unfold State.enterHanded
  exact ((h.enter _).setReady.updCtx _).updTimers _

theorem PortEvent.handoverTest (h : PortEvent p s t) : PortEvent p s (t.handoverTest p) := by
  unfold State.handoverTest
  dsimp only
  split
  · split
    · exact h.enterHanded
    · exact h
  · exact h

theorem PortEvent.enterQualified (h : PortEvent p s t) : PortEvent p s (t.enterQualified p) :=
  (h.enter _).setReady.handoverTest

theorem PortEvent.enterMiswired (h : PortEvent p s t) (x : MiswiredStage) : PortEvent p s (t.enterMiswired p x) := by
  unfold State.enterMiswired
  dsimp only
  split
  · exact (h.updCtx _).enter _
  · exact ((h.updCtx _).enter _).enterListen

theorem PortEvent.enterRetryWait (h : PortEvent p s t) : PortEvent p s (t.enterRetryWait p) := by
  unfold State.enterRetryWait
  exact (h.enter _).updTimers _

theorem PortEvent.goTo (h : PortEvent p s t) (x : Target) : PortEvent p s (t.goTo p x) := by
  unfold State.goTo
  split
  · exact h.enter _
  · cases x with
    | plain st => exact h.enter st
    | seated => exact h.enterSeated
    | listen => exact h.enterListen
    | greet => exact h.enterGreet
    | measure => exact h.enterMeasure
    | exercise => exact h.enterExercise
    | qualified => exact h.enterQualified
    | handed => exact h.enterHanded
    | miswired stage => exact h.enterMiswired stage
    | relaying => exact h.enterRelaying
    | retryWait => exact h.enterRetryWait

end Sys2Proof.Machine
end

