-- ==== Sys2Proof/Laws/Controller.lean ====
section
/-! SUPPORT. The frame of each controller, meter and channel operation, chained as in Laws/Frame.lean. -/

namespace Sys2Proof.Machine

variable {p q : PortId} {s t u : State}

/-! ### Faults and verdicts -/

theorem PortEvent.retryDecision (h : PortEvent p s t) : PortEvent p s (t.retryDecision p) := by
  unfold State.retryDecision
  dsimp only
  split
  · exact (h.updCtx _).goTo _
  · exact (h.updCtx _).goTo _

theorem PortEvent.fault (h : PortEvent p s t) (c : FaultCode) : PortEvent p s (t.fault p c) := by
  unfold State.fault
  dsimp only
  split
  · exact (h.updCtx _).goTo _
  · exact (h.updCtx _).retryDecision

theorem PortEvent.clearRetriesAt (h : PortEvent p s t) : PortEvent p s (t.clearRetriesAt p) := h.updCtx _

theorem PortEvent.recordVerdict (h : PortEvent p s t) (m : VerdictMask) : PortEvent p s (t.recordVerdict p m) :=
  (h.updCtx _).markDirty p

theorem PortEvent.flagUnverified (h : PortEvent p s t) : PortEvent p s (t.flagUnverified p) := h.setFlagIf _ _

theorem PortEvent.flagEpoch (h : PortEvent p s t) : PortEvent p s (t.flagEpoch p) := by
  unfold State.flagEpoch
  split
  · exact h.setFlagIf _ _
  · exact h

theorem PortEvent.judge (h : PortEvent p s t) (n : Option Nat) : PortEvent p s (t.judge p n).1 := by
  unfold State.judge
  dsimp only
  split
  · exact h.flagEpoch.recordVerdict _
  · exact h.flagUnverified.flagEpoch.recordVerdict _

theorem PortEvent.judgeLeg (h : PortEvent p s t) : PortEvent p s (t.judgeLeg p).1 := h.flagUnverified.recordVerdict _

theorem PortEvent.wiringVerdict (h : PortEvent p s t) : PortEvent p s (t.wiringVerdict p) := by
  have h1 := h.judge none
  unfold State.wiringVerdict
  dsimp only
  split
  · exact h1.goTo _
  · exact h1.goTo _

theorem PortEvent.lengthVerdict (h : PortEvent p s t) : PortEvent p s (t.lengthVerdict p) := by
  have h1 := h.judge (t.ctx p).length
  unfold State.lengthVerdict
  dsimp only
  split
  · exact h1.goTo _
  · exact h1.goTo _

theorem PortEvent.setStage (h : PortEvent p s t) (x : MiswiredStage) : PortEvent p s (t.setStage p x) := h.updCtx _

theorem PortEvent.legVerdict (h : PortEvent p s t) : PortEvent p s (t.legVerdict p) := by
  have h1 := h.judgeLeg
  unfold State.legVerdict
  dsimp only
  split
  · split
    · exact h1.goTo _
    · exact h1.setStage _
  · split
    · exact h1
    · exact h1.goTo _

theorem PortEvent.resume (h : PortEvent p s t) : PortEvent p s (t.resume p) := by
  unfold State.resume
  split
  · exact h.goTo _
  · exact h.goTo _
  · exact h

theorem PortEvent.reVerdict (h : PortEvent p s t) : PortEvent p s (t.reVerdict p) := by
  have h1 := h.judge (t.ctx p).length
  unfold State.reVerdict
  split
  · exact h.legVerdict
  · dsimp only
    split
    · split
      · exact h1.resume
      · exact h1
    · split
      · exact h1.setStage _
      · exact h1.goTo _

/-! ### The block-error budget, lock -/

theorem PortEvent.budgetCause (h : PortEvent p s t) : PortEvent p s (t.budgetCause p) := by
  unfold State.budgetCause
  dsimp only
  split
  · exact h
  · exact (h.updPort _).setFlagIf _ _

theorem PortEvent.budgetCompare (h : PortEvent p s t) : PortEvent p s (t.budgetCompare p) := by
  unfold State.budgetCompare
  dsimp only
  split
  · split
    · exact h.budgetCause.fault _
    · exact h.budgetCause
  · exact h

theorem PortEvent.zeroRuns (h : PortEvent p s t) : PortEvent p s (t.zeroRuns p) := h.updPort _

theorem PortEvent.lockGained (h : PortEvent p s t) : PortEvent p s (t.lockGained p) := by
  have h1 := (h.updPort fun x => { x with channel := x.channel.reset }).meterClear.zeroRuns
  unfold State.lockGained
  dsimp only
  split
  · exact h1.lockInListen
  · split
    · exact (h1.updTimers _).updCtx _
    · exact h1

theorem PortEvent.lockLostByState (h : PortEvent p s t) : PortEvent p s (t.lockLostByState p) := by
  unfold State.lockLostByState
  split <;> first | exact h.fault _ | exact h.updTimers _ | exact h.goTo _ | exact h

theorem PortEvent.lossEntryAtCheck (h : PortEvent p s t) : PortEvent p s (t.lossEntryAtCheck p) := by
  unfold State.lossEntryAtCheck
  dsimp only
  split
  · exact h
  · exact h.checkOnEntry _

theorem PortEvent.lockLost (h : PortEvent p s t) (b : Bool) : PortEvent p s (t.lockLost p b) := by
  unfold State.lockLost
  cases b
  · exact ((h.updPort _).endCheckOn _ _).meterClear.zeroRuns.lockLostByState
  · exact ((h.lossEntryAtCheck.updPort _).endCheckOn _ _).meterClear.zeroRuns.lockLostByState

/-! ### The meter's reports -/

theorem PortEvent.completeMeasure (h : PortEvent p s t) : PortEvent p s (t.completeMeasure p) := by
  unfold State.completeMeasure
  dsimp only
  split
  · split
    · exact h.fault _
    · exact ((h.updMeter _).storeLength _ _).lengthVerdict
  · exact h

theorem PortEvent.completeOthers (h : PortEvent p s t) (a b : Bool) : PortEvent p s (t.completeOthers p a b) := by
  have h1 := (h.updMeter fun m => if a then m.endJob .leg else m).updMeter fun m => if b then m.endJob .scan else m
  unfold State.completeOthers
  dsimp only
  generalize ((t.updMeter p fun m => if a then m.endJob .leg else m).updMeter p fun m => if b then m.endJob .scan else m) = u
    at h1 ⊢
  split
  · refine .ite (.ite (h1.endCheckOn _ _) h1) (PortEvent.reVerdict (.ite ?_ (h1.storeLength _ _)))
    exact (h1.storeLength _ _).endCheckOn _ _
  · exact h1

theorem PortEvent.completeJobs (h : PortEvent p s t) : PortEvent p s (t.completeJobs p) := by
  unfold State.completeJobs
  dsimp only
  split
  · exact h.completeMeasure
  · split
    · exact h.completeOthers _ _
    · exact h

theorem PortEvent.measurementUnstable (h : PortEvent p s t) : PortEvent p s (t.measurementUnstable p) := by
  unfold State.measurementUnstable
  dsimp only
  split
  · exact (h.updMeter _).fault _
  · have hq : ∀ (b : Bool) (u : State), PortEvent p s u →
        PortEvent p s (if b = true then u.queueMessage p unstableDelay else u) := by
      intro b u hu
      cases b
      · simpa using hu
      · simpa using hu.queueMessage _
    split
    · exact (hq _ _ ((h.updMeter _).updMeter _)).endCheckOn _ _
    · exact hq _ _ ((h.updMeter _).updMeter _)

theorem PortEvent.pairTaken (h : PortEvent p s t) (lp lm : Nat) : PortEvent p s (t.pairTaken p lp lm) := by
  unfold State.pairTaken
  dsimp only
  split
  · exact ((h.updMeter _).measurementStable _).completeJobs
  · split
    · exact (h.updMeter _).updMeter _
    · exact (h.updMeter _).measurementUnstable

theorem PortEvent.meterTakes (h : PortEvent p s t) (n : Nat) : PortEvent p s (t.meterTakes p n) := by
  unfold State.meterTakes
  dsimp only
  split
  · exact h.updMeter _
  · exact h.pairTaken _ _
  · exact h

/-! ### Messages -/

theorem PortEvent.messageDelivered (h : PortEvent p s t) (m : Message) : PortEvent p s (t.messageDelivered p m) := by
  unfold State.messageDelivered
  dsimp only
  split
  · split
    · exact ((h.updMeter _).updPort _).wiringVerdict
    · exact (h.updMeter _).updPort _
  · exact (h.updMeter _).completeJobs

theorem PortEvent.scanMessageFailed (h : PortEvent p s t) (m : Message) : PortEvent p s (t.scanMessageFailed p m) := by
  unfold State.scanMessageFailed
  split
  · split
    · refine PortEvent.endUnanswered ?_ _
      split
      · exact h.updMeter _
      · exact h
    · exact h
  · exact h

theorem PortEvent.messageFailed (h : PortEvent p s t) (m : Message) : PortEvent p s (t.messageFailed p m) := by
  have h1 : ∀ u, PortEvent p s u →
      PortEvent p s ((u.scanMessageFailed p m).updMeter p (endLegOf m.purposes.measurement)) :=
    fun u hu => (hu.scanMessageFailed m).updMeter _
  unfold State.messageFailed
  dsimp only
  exact .ite ((h1 _ (.ite (h.updCtx _) h)).fault _) (h1 _ (.ite (h.updCtx _) h))

theorem PortEvent.attemptFailed (h : PortEvent p s t) : PortEvent p s (t.attemptFailed p) := by
  unfold State.attemptFailed
  dsimp only
  split
  · exact h
  · split
    · exact h.updPort _
    · exact (h.updPort _).messageFailed _

theorem PortEvent.attemptEnded (h : PortEvent p s t) (j : Bool) : PortEvent p s (t.attemptEnded p j) := by
  unfold State.attemptEnded
  dsimp only
  split
  · exact (h.updPort _).attemptFailed
  · split
    · exact ((h.updPort _).updPort _).messageDelivered _
    · exact h.updPort _

theorem PortEvent.senderTakes (h : PortEvent p s t) (k j : Bool) : PortEvent p s (t.senderTakes p k j) := by
  unfold State.senderTakes
  dsimp only
  split
  · split
    · exact h.attemptEnded _
    · exact h.updPort _
  · exact h.updPort _

theorem PortEvent.takeHead (h : PortEvent p s t) : PortEvent p s (t.takeHead p) := by
  unfold State.takeHead
  split
  · exact h
  · exact h.updPort _

theorem PortEvent.countDrop (h : PortEvent p s t) : PortEvent p s (t.countDrop p) := h.updCtx _

theorem PortEvent.storePeer (h : PortEvent p s t) (i : PeerIdentity) : PortEvent p s (t.storePeer p i) := h.updCtx _

theorem PortEvent.answerIf (h : PortEvent p s t) (b : Bool) : PortEvent p s (t.answerIf b p) := by
  unfold State.answerIf
  split
  · exact h.queueMessage _
  · exact h

theorem PortEvent.helloInGreet (h : PortEvent p s t) (i : PeerIdentity) (rr : Bool) : PortEvent p s (t.helloInGreet p i rr) := by
  unfold State.helloInGreet
  dsimp only
  split
  · exact (((h.storePeer _).updPort _).answerIf _).wiringVerdict
  · exact ((h.storePeer _).updPort _).answerIf _

theorem PortEvent.delayInMeasure (h : PortEvent p s t) (r : DelayRecord) : PortEvent p s (t.delayInMeasure p r) := by
  unfold State.delayInMeasure
  dsimp only
  refine PortEvent.completeJobs ?_
  split
  · exact .ite ((h.updMeter _).queueMessage _) (h.updMeter _)
  · exact h.updMeter _

theorem PortEvent.delayInAnswering (h : PortEvent p s t) (r : DelayRecord) : PortEvent p s (t.delayInAnswering p r) := by
  unfold State.delayInAnswering
  dsimp only
  split
  · exact ((h.updMeter _).startJob _).completeJobs
  · split
    · exact (h.updMeter _).completeJobs
    · exact h

theorem PortEvent.delayReceived (h : PortEvent p s t) (r : DelayRecord) : PortEvent p s (t.delayReceived p r) := by
  unfold State.delayReceived
  split <;> first | exact h.updMeter _ | exact h.delayInMeasure r | exact h.delayInAnswering r | exact h

/-! ### Messages that a leg forwards -/

theorem SameButGrant.toQueue {x y : Port} (h : SameButGrant x y) : SameButQueue x y := congrArg Port.withoutQueue h

theorem PortEvent.toRelay (h : PortEvent p s t) : RelayEvent p s t :=
  ⟨h.1, fun q hq => ⟨(h.2 q hq).toQueue, fun _ => h.2 q hq⟩⟩

theorem SameHost.partner (h : SameHost s t) (p : PortId) : t.partner p = s.partner p := by
  unfold State.partner State.isRelay State.entry
  rw [h.plan]

theorem PortEvent.thenRelay (h : PortEvent p s t) (k : RelayEvent p t u) : RelayEvent p s u := by
  refine ⟨h.1.trans k.1, fun q hq => ?_⟩
  obtain ⟨k1, k2⟩ := k.2 q hq
  have h1 := h.2 q hq
  exact ⟨k1.trans h1.toQueue, fun e => h1.trans (k2 (h.1.partner p ▸ e))⟩

theorem RelayEvent.thenPort (h : RelayEvent p s t) (k : PortEvent p t u) : RelayEvent p s u := by
  refine ⟨h.1.trans k.1, fun q hq => ?_⟩
  obtain ⟨h1, h2⟩ := h.2 q hq
  have k1 := k.2 q hq
  exact ⟨k1.toQueue.trans h1, fun e => (h2 e).trans k1⟩

theorem PortEvent.forwardHello (h : PortEvent p s t) (i : PeerIdentity) (rr : Bool) :
    RelayEvent p s (t.forwardHello p i rr) := by
  refine h.thenRelay ?_
  unfold State.forwardHello
  split
  · next q hq =>
    split
    · refine ⟨SameHost.ofPorts _, fun r _ => ?_⟩
      by_cases e : r = q
      · subst e
        refine ⟨?_, fun hne => absurd hq hne⟩
        rw [State.queueMessage, port_updPort_same]
        rfl
      · have hr : ∀ f, (t.updPort q f).port r = t.port r := fun f => port_updPort_ne _ _ _ _ e
        simp only [State.queueMessage, hr]
        exact ⟨(SameButGrant.refl _).toQueue, fun _ => .refl _⟩
    · exact (PortEvent.refl.countDrop).toRelay
  · exact (PortEvent.refl.countDrop).toRelay

theorem PortEvent.helloReceived (h : PortEvent p s t) (i : PeerIdentity) (rr : Bool) :
    RelayEvent p s (t.helloReceived p i rr) := by
  have h1 : PortEvent p s (if rr then t else t.endCheckOn p .peer .replied) := by
    split
    · exact h
    · exact h.endCheckOn _ _
  unfold State.helloReceived
  dsimp only
  generalize (if rr then t else t.endCheckOn p .peer .replied) = u at h1 ⊢
  split
  · exact h1.forwardHello i rr
  · exact (h1.helloInGreet i rr).toRelay
  · exact ((h1.storePeer i).answerIf rr).toRelay
  · exact (h1.answerIf rr).toRelay
  · exact ((h1.storePeer i).answerIf rr).reVerdict.toRelay
  · exact ((h1.storePeer i).answerIf rr).reVerdict.toRelay
  · split
    · exact h1.countDrop.toRelay
    · exact ((h1.storePeer i).answerIf rr).reVerdict.toRelay
  · exact h1.toRelay

theorem PortEvent.receiverTakes (h : PortEvent p s t) (f : FrameFields) : RelayEvent p s (t.receiverTakes p f) := by
  unfold State.receiverTakes State.acceptMessage
  dsimp only
  split
  · split
    · exact (h.updPort _).helloReceived _ _
    · exact ((h.updPort _).delayReceived _).toRelay
  · exact (h.updPort _).toRelay

theorem PortEvent.channelTakes (h : PortEvent p s t) (f : FrameFields) (b : Bool) : RelayEvent p s (t.channelTakes p f b) := by
  unfold State.channelTakes
  dsimp only
  split
  · split
    · exact (h.senderTakes _ _).receiverTakes f
    · exact (h.senderTakes _ _).toRelay
  · split
    · exact (h.receiverTakes f).thenPort (PortEvent.refl.senderTakes _ _)
    · exact h.receiverTakes f

/-! ### Exercise windows, words, presence -/

theorem PortEvent.copyCounts (h : PortEvent p s t) (g : Grant) : PortEvent p s (t.copyCounts p g) :=
  (h.updCtx _).markDirty p

theorem PortEvent.stall (h : PortEvent p s t) : PortEvent p s (t.stall p) := by
  unfold State.stall
  dsimp only
  split
  · split
    · exact (h.updCtx _).requeue _ _
    · exact ((h.updCtx _).giveBack p).fault _
  · exact h.updCtx _

theorem PortEvent.endSoak (h : PortEvent p s t) (g : Grant) : PortEvent p s (t.endSoak p g) := by
  have h1 := (h.copyCounts g).giveBack p
  unfold State.endSoak
  dsimp only
  split
  · split
    · exact h1.fault _
    · split
      · exact h1.fault _
      · exact h1.goTo _
  · exact h1

theorem PortEvent.peerStopped (h : PortEvent p s t) (g : Grant) : PortEvent p s (t.peerStopped p g) := by
  unfold State.peerStopped
  split
  · exact (h.setFlag _).endSoak g
  · exact h.stall

theorem PortEvent.wordAtPool (h : PortEvent p s t) (w : BitVec 8) : PortEvent p s (t.wordAtPool p w) := by
  unfold State.wordAtPool
  split
  · exact h
  · split
    · split
      · exact (h.updGrant _ _).updTimers _
      · exact h
    · exact .ite ((h.updGrant _ _).peerStopped _) (h.updGrant _ _)

theorem PortEvent.dropBack (h : PortEvent p s t) : PortEvent p s (t.dropBack p) := (h.updCtx _).goTo _

theorem PortEvent.wordByState (h : PortEvent p s t) (w : BitVec 8) : PortEvent p s (t.wordByState p w) := by
  unfold State.wordByState
  dsimp only
  split
  · split
    · exact h.goTo _
    · exact h.handoverTest
  · split
    · exact h.fault _
    · split
      · exact h.dropBack
      · exact h
  · exact h.wordAtPool w
  · exact h

theorem PortEvent.wordDelivered (h : PortEvent p s t) (w : BitVec 8) : PortEvent p s (t.wordDelivered p w) := by
  unfold State.wordDelivered
  dsimp only
  exact ((PortEvent.ite h ((h.updCtx _).markDirty p)).updPort _).wordByState _

theorem PortEvent.blockError (h : PortEvent p s t) : PortEvent p s (t.blockError p) := by
  unfold State.blockError
  dsimp only
  split
  · exact (((h.updCtx _).markDirty p).updPort _ |>.updCtx _).budgetCompare
  · exact ((h.updCtx _).markDirty p).updPort _

theorem PortEvent.cablePull (h : PortEvent p s t) : PortEvent p s (t.cablePull p) := by
  unfold State.cablePull
  dsimp only
  split
  · exact h.updCtx _
  · exact ((h.goTo _).updCtx _).setFlagIf _ _

theorem PortEvent.presenceGained (h : PortEvent p s t) : PortEvent p s (t.presenceGained p) := by
  unfold State.presenceGained
  split
  · exact h.goTo _
  · exact h

theorem PortEvent.restartPort (h : PortEvent p s t) : PortEvent p s (t.restartPort p) := by
  unfold State.restartPort
  dsimp only
  split
  · exact h
  · split
    · exact h.goTo _
    · exact h.goTo _

theorem PortEvent.identityOutcome (h : PortEvent p s t) (c : CableIdentity) : PortEvent p s (t.identityOutcome p c) := by
  unfold State.identityOutcome State.flagOutcome
  split
  · split
    · exact ((((h.updCtx _).markDirty p)).setFlag _).goTo _
    · exact ((((h.updCtx _).markDirty p)).setFlag _).goTo _
    · exact ((h.updCtx _).markDirty p).goTo _
  · exact h

theorem PortEvent.awaitFarResult (h : PortEvent p s t) (r : OffResult) : PortEvent p s (t.awaitFarResult p r) := by
  unfold State.awaitFarResult
  split
  · exact h.goTo _
  · exact (h.updPort _).setFlag _
  · exact (h.updCtx _).goTo _
  · exact h

theorem PortEvent.lineResult (h : PortEvent p s t) (w : LineWindow) (b : Bool) : PortEvent p s (t.lineResult p w b) := by
  have h1 : ∀ u, PortEvent p s u →
      PortEvent p s (if u.portState p = .awaitFar then u.awaitFarResult p (windowResult w) else u) :=
    fun u hu => .ite (hu.awaitFarResult _) hu
  exact h1 _ (.ite ((h.updPort _).endCheckOn _ _) (h.updPort _))

theorem PortEvent.lineResultIf (h : PortEvent p s t) (w : Option LineWindow) (b : Bool) :
    PortEvent p s (t.lineResultIf p w b) := by
  unfold State.lineResultIf
  split
  · exact h.lineResult _ _
  · exact h

theorem PortEvent.presenceChange (h : PortEvent p s t) (c : PortMask) : PortEvent p s (t.presenceChange p c) := by
  unfold State.presenceChange
  split
  · split
    · exact h.presenceGained
    · exact h.cablePull
  · exact h

theorem PortEvent.samplePort (h : PortEvent p s t) (c : PortMask) (w : Option LineWindow) (a b : Bool) :
    PortEvent p s (t.samplePort p c w a b) := by
  unfold State.samplePort
  dsimp only
  split
  · exact (h.lineResultIf _ _).presenceChange c
  · exact (h.presenceChange c).lineResultIf _ _

/-! ### Events over all ports -/

/-- Events of ports, each with its own frame, one after another, leave the host's side alone. -/
theorem SameHost.forPorts {f : PortId → State → State} (hf : ∀ p s, SameHost s (f p s)) (ps : List PortId) (s : State) :
    SameHost s (forPorts ps f s) := by
  induction ps generalizing s with
  | nil => exact .refl s
  | cons p ps ih => exact (hf p s).trans (ih (f p s))

theorem SameHost.stopPorts (s : State) : SameHost s s.stopPorts := by
  refine SameHost.forPorts (fun p s => ?_) _ _
  split
  · exact .refl s
  · exact (PortEvent.refl.goTo (p := p) _).1

theorem SameHost.leaveDormant (s : State) : SameHost s s.leaveDormant := by
  refine SameHost.forPorts (fun p s => ?_) _ _
  split
  · split
    · exact (PortEvent.refl.goTo (p := p) _).1
    · exact (PortEvent.refl.goTo (p := p) _).1
  · exact .refl s

theorem SameHost.takeAtPorts {admits : PortState → Bool} {act : PortId → State → State}
    (ha : ∀ p s, SameHost s (act p s)) (m : PortMask) (s : State) (a : PortMask) :
    SameHost s (takeAtPorts admits act m s a).1 := by
  unfold Machine.takeAtPorts
  generalize allPorts = ps
  induction ps generalizing s a with
  | nil => exact .refl s
  | cons p ps ih =>
    simp only [List.foldl_cons]
    split
    · unfold takeAt
      split
      · exact (ha p s).trans (ih _ _)
      · exact ih _ _
    · exact ih _ _

theorem PortEvent.handoverAt (h : PortEvent p s t) : PortEvent p s (handoverAt p t) := (h.updCtx _).setReady.handoverTest

theorem PortEvent.withdrawAt (h : PortEvent p s t) : PortEvent p s (withdrawAt p t) := by
  unfold Machine.withdrawAt
  dsimp only
  split
  · exact ((h.updCtx _).setReady).goTo _
  · exact (h.updCtx _).setReady

theorem PortEvent.releaseAt (h : PortEvent p s t) : PortEvent p s (releaseAt p t) := by
  unfold Machine.releaseAt
  split
  · split
    · exact h.goTo _
    · exact h.goTo _
  · exact h.goTo _

theorem PortEvent.clearFlagsAt (h : PortEvent p s t) (x : BitVec 15) : PortEvent p s (t.clearFlagsAt x p) := h.updCtx _

end Sys2Proof.Machine
end

