-- ==== Sys2Proof/Laws/Entry.lean ====
section
/-! SUPPORT. What a state entry and a retryable fault do, said once: the port afterwards, and its frame. -/

namespace Sys2Proof.Machine

variable {p q : PortId} {s t : State}

/-! ### What keeps a port's own items -/

/-- What every event of some port other than `q` may do at `q` keeps its own items. -/
theorem own_of_grant {x y : Port} (h : SameButGrant x y) : y.own = x.own := by
  have hc : y.ctx.own = y.withoutGrant.ctx.own := rfl
  unfold Port.own
  rw [hc, h]
  rfl

/-- A port other than `q`. -/
def otherPort (q : PortId) : PortId := if q = 0 then 1 else 0

theorem ne_otherPort (q : PortId) : q ≠ otherPort q := by
  unfold otherPort
  split
  · next h => rw [h]; decide
  · next h => exact h

/-- An operation that is an event of any port keeps every port's own items. -/
theorem own_of_any (h : ∀ r, PortEvent r s t) (q : PortId) : (t.port q).own = (s.port q).own :=
  own_of_grant ((h (otherPort q)).2 q (ne_otherPort q))

theorem own_updPort (f : Port → Port) (hf : ∀ x, (f x).own = x.own) : ((s.updPort p f).port q).own = (s.port q).own := by
  by_cases h : q = p
  · subst h; rw [port_updPort_same, hf]
  · rw [port_updPort_ne _ _ _ _ h]

theorem own_updCtx (f : Context → Context) (hf : ∀ c, (f c).own = c.own) :
    ((s.updCtx p f).port q).own = (s.port q).own := by
  by_cases h : q = p
  · subst h
    rw [port_updCtx_same]
    simp only [Port.own, Port.withoutGrant, Port.withoutQueue, hf, State.ctx]
  · rw [port_updCtx_ne _ _ _ _ h]

theorem own_scanPart (h : ∀ r, PortEvent r s t) : (t.port q).own = (s.port q).own := own_of_any h q

theorem own_endCheck (r : ScanResult) : ((s.endCheck r).port q).own = (s.port q).own := by
  unfold State.endCheck
  split
  · rfl
  · next c _ =>
    have h1 : ∀ r', PortEvent r' (s.recordCheck c r)
        ({ (s.recordCheck c r) with scan := { (s.recordCheck c r).scan with inFlight := none } }.advancePointer.scanDrainTest) :=
      fun _ => (PortEvent.refl.scan _).advancePointer.scanDrainTest
    refine (own_of_any h1 q).trans ?_
    rw [State.recordCheck, markDirty_port]
    exact own_updCtx _ fun _ => rfl

theorem own_endCheckOn (k : ScanKind) (r : ScanResult) : ((s.endCheckOn p k r).port q).own = (s.port q).own := by
  unfold State.endCheckOn
  split
  · exact own_endCheck r
  · rfl

theorem own_updMeter (f : Meter → Meter) : ((s.updMeter p f).port q).own = (s.port q).own := own_updPort _ fun _ => rfl

theorem own_meterClear : ((s.meterClear p).port q).own = (s.port q).own := by
  unfold State.meterClear
  dsimp only
  split
  · exact (own_endCheckOn _ _).trans (own_updMeter _)
  · exact own_updMeter _

theorem own_giveBack : ((s.giveBack p).port q).own = (s.port q).own := own_of_any (fun _ => PortEvent.refl.giveBack p) q

theorem own_leaveIdentity : ((s.leaveIdentity p).port q).own = (s.port q).own :=
  own_of_any (fun _ => PortEvent.refl.leaveIdentity p) q

theorem own_setSummary (b : SummaryBit) : ((s.setSummary b).port q).own = (s.port q).own := by rw [setSummary_port]

theorem own_checkOnEntry (st : PortState) : ((s.checkOnEntry p st).port q).own = (s.port q).own := by
  unfold State.checkOnEntry
  split
  · rfl
  · split
    · rfl
    · split
      · split
        · exact own_endCheck _
        · split
          · rfl
          · exact own_endCheck _
      · split
        · rfl
        · exact own_endCheck _
      · split
        · rfl
        · exact (own_endCheck _).trans (own_updMeter _)
      · exact own_endCheck _

theorem own_dropForwarded : ((s.dropForwarded p).port q).own = (s.port q).own := by
  unfold State.dropForwarded
  dsimp only
  rw [own_updCtx, own_updPort]
  · exact fun _ => rfl
  · exact fun _ => rfl

/-! ### A state entry -/

/-- Parts of a port that its own items determine. -/
theorem own_ctx (h : (t.port q).own = (s.port q).own) : (t.ctx q).own = (s.ctx q).own := by
  show (t.port q).own.ctx = (s.port q).own.ctx
  rw [h]

theorem own_stateAt {x y : Port} (h : x.own = y.own) : x.ctx.state = y.ctx.state := by
  show x.own.ctx.state = y.own.ctx.state
  rw [h]

theorem own_state (h : (t.port q).own = (s.port q).own) : t.portState q = s.portState q := own_stateAt h

theorem own_framer {x y : Port} (h : x.own = y.own) : x.framer = y.framer := by
  show x.own.framer = y.own.framer
  rw [h]

/-- The transmitter's part of a port that turns off. -/
def Port.turnedOff (x : Port) : Port := { x with framer := resetFramer, channel := resetChannel, onState := ⟨0, 0, false⟩ }

theorem own_turnedOff {x y : Port} (h : x.own = y.own) : x.turnedOff.own = y.turnedOff.own := by
  show x.own.turnedOff.own = y.own.turnedOff.own
  rw [h]

theorem own_timers {x y : Port} (h : x.own = y.own) (old new : PortState) :
    { x with timers := x.timers.left old new }.own = { y with timers := y.timers.left old new }.own := by
  show { x.own with timers := x.own.timers.left old new }.own = { y.own with timers := y.own.timers.left old new }.own
  rw [h]

theorem own_entered {x y : Port} (h : x.own = y.own) (st : PortState) (ms : Word) :
    (x.entered st ms).own = (y.entered st ms).own := by
  show (x.own.entered st ms).own = (y.own.entered st ms).own
  rw [h]

theorem own_turnOff : ((s.turnOff p).port p).own = (s.port p).turnedOff.own := by
  unfold State.turnOff
  rw [own_meterClear, port_updPort_same]
  rfl

/-- HANDOVER goes first. -/
theorem handoverOff_port :
    (if s.portState p = .handed then s.updPort p Port.handoverOff else s).port p =
      if (s.port p).ctx.state = .handed then (s.port p).handoverOff else s.port p := by
  unfold State.portState State.ctx
  split
  · rw [port_updPort_same]
  · rfl

theorem turnOffIf_port {u v : State} (h : (v.port p).own = (u.port p).own) (st : PortState) :
    ((if (v.port p).framer.tx.isSome && !st.transmits then v.turnOff p else v).port p).own =
      (if (u.port p).framer.tx.isSome && !st.transmits then (u.port p).turnedOff else u.port p).own := by
  rw [own_framer h]
  split
  · rw [own_turnOff]
    exact own_turnedOff h
  · exact h

/-- The steps before an entry and the entry itself, at the port: one equation for every state entry. -/
theorem own_recordLeave (st : PortState) :
    (((s.leave p st).recordEntry p st).port p).own = ((s.port p).afterEntry st s.ms).own := by
  have hms : (s.leave p st).ms = s.ms := (PortEvent.refl (p := p).leave st).1.ms
  unfold State.recordEntry
  rw [own_setSummary, markDirty_port, port_updPort_same, hms]
  unfold Port.afterEntry
  refine own_entered ?_ _ _
  unfold State.leave
  dsimp only
  rw [port_updPort_same]
  refine own_timers ?_ _ _
  rw [← handoverOff_port]
  exact turnOffIf_port (own_leaveIdentity.trans own_giveBack) st

theorem own_enter (st : PortState) : ((s.enter p st).port p).own = ((s.port p).afterEntry st s.ms).own := by
  have h1 : (((((s.leave p st).recordEntry p st).checkOnEntry p st).updMeter p fun m => m.endJobsOutside st).port p).own =
      ((s.port p).afterEntry st s.ms).own := (own_updMeter _).trans ((own_checkOnEntry st).trans (own_recordLeave st))
  unfold State.enter
  dsimp only
  split
  · exact own_dropForwarded.trans h1
  · exact h1

/-- The context's own items after an entry. -/
theorem ctx_enter (st : PortState) : ((s.enter p st).ctx p).own = ((s.ctx p).entered st s.ms).own := by
  have h := own_enter (s := s) (p := p) st
  have hc : ∀ x y : Port, x.own = y.own → x.ctx.own = y.ctx.own := by
    intro x y e
    show x.own.ctx = y.own.ctx
    rw [e]
  refine (hc _ _ h).trans ?_
  unfold Port.afterEntry Port.entered State.ctx
  dsimp only
  split <;> split <;> rfl

theorem SameHost.dirty_of {p : PortId} (h : SameHost s t) (hd : maskHas s.page.dirty p = true) :
    maskHas t.page.dirty p = true := by
  have h1 := congrArg (fun m => BitVec.getLsbD m p.val) h.dirty
  simp only [BitVec.getLsbD_and] at h1
  unfold maskHas at *
  rw [hd] at h1
  simpa using h1

theorem SameHost.summary_of {i : Nat} (h : SameHost s t) (hd : s.summary.getLsbD i = true) : t.summary.getLsbD i = true := by
  have h1 := congrArg (fun m => BitVec.getLsbD m i) h.summary
  simp only [BitVec.getLsbD_and] at h1
  rw [hd] at h1
  simpa using h1

theorem maskHas_or_portBit (m : PortMask) (p : PortId) : maskHas (m ||| portBit p) p = true := by
  unfold maskHas portBit
  have := p.isLt
  simp

/-- Marks that an entry leaves. -/
theorem recordEntry_marks (st : PortState) :
    maskHas (s.recordEntry p st).page.dirty p = true ∧ (s.recordEntry p st).summary.getLsbD 1 = true := by
  unfold State.recordEntry
  rw [setSummary_eq]
  refine ⟨maskHas_or_portBit _ _, ?_⟩
  show (_ ||| SummaryBit.portChange.mask).getLsbD 1 = true
  rw [BitVec.getLsbD_or]
  simp [SummaryBit.mask, SummaryBit.index]

/-- What follows the entry proper is an event of the port. -/
theorem enter_afterRecord (st : PortState) : PortEvent p ((s.leave p st).recordEntry p st) (s.enter p st) := by
  have h1 := ((PortEvent.refl (p := p) (s := (s.leave p st).recordEntry p st)).checkOnEntry st).updMeter
    (fun m => m.endJobsOutside st)
  unfold State.enter
  exact .ite h1.dropForwarded h1

/-- Everything an entry leaves, but for the entry actions (R2, R3, R18). -/
theorem entered_enter (st : PortState) : Entered p st s (s.enter p st) where
  event := PortEvent.refl.enter st
  state := by
    have h := ctx_enter (s := s) (p := p) st
    have h1 : ((s.enter p st).ctx p).own.state = ((s.ctx p).entered st s.ms).own.state := by rw [h]
    exact h1
  stamp := by
    have h := ctx_enter (s := s) (p := p) st
    have h1 : ((s.enter p st).ctx p).own.stamp = ((s.ctx p).entered st s.ms).own.stamp := by rw [h]
    exact h1
  dirty := (enter_afterRecord st).1.dirty_of (recordEntry_marks st).1
  portChange := (enter_afterRecord st).1.summary_of (recordEntry_marks st).2
  handover := by
    have h1 : ((s.enter p st).port p).own.handover = ((s.port p).afterEntry st s.ms).own.handover := by rw [own_enter]
    exact h1
  transmitter := fun hst => by
    have h1 := own_framer (own_enter (s := s) (p := p) st)
    rw [h1]
    unfold Port.afterEntry Port.entered
    dsimp only
    rw [hst]
    split <;> split
    · rfl
    · next h => simpa using h
    · rfl
    · next h => simpa using h

/-! ### Entries in a chain of events -/

variable {u : State} {st : PortState}

theorem Entered.after (k : PortEvent p s t) (h : Entered p st t u) : Entered p st s u :=
  { h with event := k.trans h.event, stamp := h.stamp.trans k.1.ms }

/-- A later event of the port that keeps state, stamp, HANDOVER and transmitter keeps the entry. -/
theorem Entered.andThen (h : Entered p st s t) (k : PortEvent p t u) (hs : u.portState p = t.portState p)
    (hst : (u.ctx p).stamp = (t.ctx p).stamp) (hh : (u.port p).handover = (t.port p).handover)
    (htx : (u.port p).framer.tx = (t.port p).framer.tx) : Entered p st s u where
  event := h.event.trans k
  state := hs.trans h.state
  stamp := hst.trans h.stamp
  dirty := k.1.dirty_of h.dirty
  portChange := k.1.summary_of h.portChange
  handover := hh.trans h.handover
  transmitter := fun e => htx.trans (h.transmitter e)

theorem Entered.andTimers (h : Entered p st s t) (f : Timers → Timers) : Entered p st s (t.updTimers p f) := by
  refine h.andThen (PortEvent.refl.updTimers f) ?_ ?_ ?_ ?_ <;>
    simp [State.updTimers, State.portState, State.ctx]

/-! ### Faults -/

/-- RETRY_WAIT (R141): the entry, its context, and the period. -/
theorem retryWait_taken : Entered p .retryWait s (s.enterRetryWait p) ∧
    ((s.enterRetryWait p).ctx p).own = ((s.ctx p).entered .retryWait s.ms).own ∧
    ((s.enterRetryWait p).port p).timers.retryLength = some (s.retryLength p) ∧
    ((s.enterRetryWait p).port p).timers.retryRemaining = some (s.retryLength p) := by
  unfold State.enterRetryWait
  refine ⟨(entered_enter _).andTimers _, ?_, ?_, ?_⟩
  · rw [← ctx_enter]
    simp [State.updTimers, State.ctx]
  · simp [State.updTimers]
  · simp [State.updTimers]

theorem goTo_plain (st : PortState) (h : (!s.run && s.portState p == .handed) = false) :
    s.goTo p (.plain st) = s.enter p st := by
  unfold State.goTo
  rw [h]
  rfl

theorem goTo_of_running (x : Target) (h : (!s.run && s.portState p == .handed) = false) (y : State)
    (hy : (match x with
      | .plain st => s.enter p st
      | .seated => s.enterSeated p
      | .listen => s.enterListen p
      | .greet => s.enterGreet p
      | .measure => s.enterMeasure p
      | .exercise => s.enterExercise p
      | .qualified => s.enterQualified p
      | .handed => s.enterHanded p
      | .miswired stage => s.enterMiswired p stage
      | .relaying => s.enterRelaying p
      | .retryWait => s.enterRetryWait p) = y) : s.goTo p x = y := by
  unfold State.goTo
  rw [h]
  exact hy

/-- Everything a retryable fault does (R26, R140, R141). -/
theorem fault_taken (c : FaultCode) : FaultTaken p c s (s.fault p c) := by
  have k1 : PortEvent p s (s.updCtx p fun x => { x with lastFault := c }) := PortEvent.refl.updCtx _
  unfold State.fault
  dsimp only
  generalize hu : (s.updCtx p fun x => { x with lastFault := c }) = u at k1 ⊢
  have hctx : u.ctx p = { s.ctx p with lastFault := c } := by rw [← hu, ctx_updCtx_same]
  have hst : u.portState p = s.portState p := by unfold State.portState; rw [hctx]
  have hentry : u.entry p = s.entry p := by unfold State.entry; rw [k1.1.plan]
  split
  · next h =>
    have hd : s.run = false ∧ s.portState p = .handed := by
      rw [k1.1.run, hst] at h
      simpa using h
    have hf : s.faultState p = .dormant := by unfold State.faultState; rw [if_pos hd]
    have hg : s.fullAfterFault p = (s.ctx p).retryFull := by
      unfold State.fullAfterFault
      simp [hd.1, hd.2]
    have he : u.goTo p (.plain .dormant) = u.enter p .dormant := by
      unfold State.goTo
      split <;> rfl
    rw [he]
    refine ⟨?_, ?_, ?_⟩
    · rw [hf]; exact (entered_enter _).after k1
    · rw [ctx_enter, hf, hg, hctx, k1.1.ms]
    · rw [hf]; intro e; cases e
  · next h =>
    have hn : ¬ (s.run = false ∧ s.portState p = .handed) := by
      rw [k1.1.run, hst] at h
      simpa using h
    have hb : (s.run == false && s.portState p == .handed) = false := by
      rw [Bool.and_eq_false_iff]
      by_cases hr : s.run = false
      · exact .inr (by simpa using fun e => hn ⟨hr, e⟩)
      · exact .inl (by simpa using hr)
    unfold State.retryDecision
    dsimp only
    have k2 := k1.updCtx fun x => { x with retryFull := x.retryFull || u.fillsRetry p }
    generalize hv : (u.updCtx p fun x => { x with retryFull := x.retryFull || u.fillsRetry p }) = v at k2 ⊢
    have hvctx : v.ctx p = { s.ctx p with lastFault := c, retryFull := s.fullAfterFault p } := by
      rw [← hv, ctx_updCtx_same, hctx]
      unfold State.fillsRetry State.fullAfterFault
      rw [hentry, hctx, hb]
      simp
    have hvst : v.portState p = s.portState p := by unfold State.portState; rw [hvctx]
    have hventry : v.entry p = s.entry p := by unfold State.entry; rw [k2.1.plan]
    have hgo : (!v.run && v.portState p == .handed) = false := by
      rw [k2.1.run, hvst]
      cases hr : s.run <;> simp [hr] at hb ⊢
      exact hb
    have hfs : s.faultState p = if v.latches p then .latched else .retryWait := by
      unfold State.faultState State.latches
      rw [if_neg hn, hventry, hvctx]
      cases (s.entry p).retryPolicy <;> simp
    split
    · next hl =>
      have hf : s.faultState p = .latched := by rw [hfs, if_pos hl]
      rw [goTo_plain _ hgo]
      refine ⟨?_, ?_, ?_⟩
      · rw [hf]; exact (entered_enter _).after k2
      · rw [ctx_enter, hf, hvctx, k2.1.ms]
      · rw [hf]; intro e; cases e
    · next hl =>
      have hf : s.faultState p = .retryWait := by rw [hfs, if_neg hl]
      rw [goTo_of_running .retryWait hgo _ rfl]
      obtain ⟨h1, h2, h3, h4⟩ := retryWait_taken (s := v) (p := p)
      refine ⟨?_, ?_, ?_⟩
      · rw [hf]; exact h1.after k2
      · rw [h2, hf, hvctx, k2.1.ms]
      · intro _
        rw [h3, h4]
        refine ⟨?_, rfl⟩
        unfold State.retryLength
        rw [hventry, hvctx]

end Sys2Proof.Machine
end

