-- ==== Sys2Proof/Laws/Orders.lean ====
section
/-! SUPPORT. The walker, the completion of an order, and what a loop over the ports does at one port. -/

namespace Sys2Proof.Machine

variable {s t u : State} {p q : PortId}

/-! ### The walker -/

/-- A change of walker changes the walker and may mark the header, nothing else (R168). -/
theorem setWalker_eq (s : State) (w : Walker) :
    s.setWalker w =
      { s with walker := w, page := { s.page with headerMark := s.page.headerMark || decide (w.code ≠ s.walker.code) } } := by
  unfold State.setWalker State.markHeader
  split <;> simp_all

/-- A re-read begins, or with the anchor at 0 the walker rests in IDLE (R169). -/
theorem startFetch_eq (s : State) :
    s.startFetch = s.setWalker (if s.anchor = 0 then .idle 0 else .fetching .link false) := by
  unfold State.startFetch
  split <;> rfl

/-- Writing IRQ_EN (R183). -/
theorem writeIrqEn_eq (s : State) (b : Bool) : s.writeIrqEn b = s.irqWritten b := by
  unfold State.writeIrqEn State.irqWritten State.testInterrupt State.enabledSummary State.sendInterrupt
  cases b <;> cases h : s.msi.enabled <;> by_cases k : s.summary &&& s.summaryEnable = 0#6 <;> simp [h, k]

/-- A work fault (R171, R176). -/
theorem workFault_eq (s : State) (c : WorkFaultCause) :
    ∃ n, s.workFault c =
      { s with walker := .halted, lastWorkFault := c, summary := s.summary ||| 0x20,
               page := { s.page with headerMark := true },
               issued := s.issued ++ List.replicate n (.interrupt s.msi.address s.msi.data) } := by
  unfold State.workFault
  rw [setSummary_eq, setWalker_eq]
  exact ⟨_, rfl⟩

theorem handedOrder_of {o : Order} (h : s.handed o) : s.handedOrder o.kind = some o := by
  unfold State.handedOrder
  rw [h.1]
  simp [h.2]

theorem workingOrder_of {o : Order} (h : s.working o) : s.workingOrder o.kind = some o := by
  unfold State.workingOrder
  rw [h.1]
  simp [h.2]

/-! ### Completion -/

/-- The writes by which an order completes (R172 steps 4 and 5). -/
def doneWrites (a : Address) (outcome : Byte) (applied : PortMask) (report : Option (Byte × Byte)) : List Issued :=
  [.write (a + 10) [outcome], .write (a + 20) (leBytes 4 applied.toNat)] ++
    (match report with
      | some (x, y) => [.write (a + 56) [x, y]]
      | none => []) ++ [.write (a + 9) [2]]

/-- Where a walker goes when its order has completed (R172, R178). -/
def Walker.afterOrder (w : Walker) (a : Address) : Walker :=
  match w with
  | .acting _ => if a = 0 then .idle 0 else .fetching .link false
  | _ => .stopped

/-- Everything a completion does: the writes, SUMMARY with its interrupt, the walker with its header mark. -/
theorem completeOrder_eq (s : State) (o : Order) (oc : OrderOutcome) (applied : PortMask) (report : Option (Byte × Byte)) :
    ∃ m, s.completeOrder o oc applied report =
      { s with
        summary := if o.notify then s.summary ||| 1 else s.summary
        walker := s.walker.afterOrder s.anchor
        page := { s.page with headerMark :=
          s.page.headerMark || decide ((s.walker.afterOrder s.anchor).code ≠ s.walker.code) }
        issued := s.issued ++ doneWrites o.address oc.code applied report ++
          List.replicate m (.interrupt s.msi.address s.msi.data) } := by
  have key : ∀ v : State, (match v.walker with | .acting _ => v.startFetch | _ => v.setWalker .stopped) =
      v.setWalker (v.walker.afterOrder v.anchor) := by
    intro v
    unfold Walker.afterOrder
    cases h : v.walker <;> simp only [startFetch_eq]
  have sum : ∀ v : State, ∃ m, (if o.notify then v.setSummary .orderDone else v) =
      { v with summary := if o.notify then v.summary ||| 1 else v.summary,
               issued := v.issued ++ List.replicate m (.interrupt v.msi.address v.msi.data) } := by
    intro v
    cases o.notify
    · exact ⟨0, by simp⟩
    · exact ⟨_, setSummary_eq v .orderDone⟩
  unfold State.completeOrder
  dsimp only
  generalize hv : State.issue _ (o.address + 9) [2] = v
  have wr : v = { s with issued := s.issued ++ doneWrites o.address oc.code applied report } := by
    rw [← hv]
    cases report <;> simp [State.issue, doneWrites]
  rw [wr]
  obtain ⟨m, hm⟩ := sum { s with issued := s.issued ++ doneWrites o.address oc.code applied report }
  rw [hm]
  refine ⟨m, ?_⟩
  exact (key _).trans (setWalker_eq _ _)

/-- A completion, at a state that the order's effect has reached from `s`, leaves the order done (R172). -/
theorem completeOrder_done (o : Order) (oc : OrderOutcome) (applied : PortMask) (report : Option (Byte × Byte))
    (ha : t.anchor = s.anchor) (hw : t.walker = s.walker) (hm : t.msi = s.msi)
    (hi : ∃ n, t.issued = s.issued ++ List.replicate n (.interrupt s.msi.address s.msi.data)) :
    OrderDone o oc.code applied report s (t.completeOrder o oc applied report) := by
  obtain ⟨m, h⟩ := completeOrder_eq t o oc applied report
  obtain ⟨n, hn⟩ := hi
  rw [h]
  refine ⟨ha, ⟨n, m, ?_⟩, ?_, ?_, ?_⟩
  · dsimp only
    rw [hn, hm]
    rfl
  · intro e
    simp [e]
  · intro d e
    dsimp only
    rw [hw, e, ha]
    rfl
  · intro d e
    dsimp only
    rw [hw, e]
    rfl

/-- A completion after an event of the ports leaves the order done. -/
theorem SameHost.completed (h : SameHost s t) (o : Order) (oc : OrderOutcome) (applied : PortMask)
    (report : Option (Byte × Byte)) : OrderDone o oc.code applied report s (t.completeOrder o oc applied report) :=
  completeOrder_done o oc applied report h.anchor h.walker h.msi h.issued

/-- A refused order is done with applied mask 0; of a kind with report fields they hold some bytes (R173, log 16). -/
theorem refuseOrder_done (s : State) (o : Order) (oc : OrderOutcome) :
    ∃ r, OrderDone o oc.code 0 r s (s.refuseOrder o oc) ∧ (r.isSome = o.kind.hasReport) := by
  unfold State.refuseOrder
  split
  · next h =>
    refine ⟨some (Config.freeByte s.free, Config.freeByte (s.free + 1)), ?_, h.symm⟩
    exact completeOrder_done (t := { s with free := s.free + 2 }) _ _ _ _ rfl rfl rfl ⟨0, by simp⟩
  · next h =>
    refine ⟨none, ?_, ?_⟩
    · exact completeOrder_done (t := s) _ _ _ _ rfl rfl rfl ⟨0, by simp⟩
    · cases hk : o.kind.hasReport
      · rfl
      · exact absurd hk h

theorem completeOrder_ports (s : State) (o : Order) (oc : OrderOutcome) (m : PortMask) (r : Option (Byte × Byte)) :
    (s.completeOrder o oc m r).ports = s.ports := by
  obtain ⟨_, h⟩ := completeOrder_eq s o oc m r
  rw [h]

theorem completeOrder_plan (s : State) (o : Order) (oc : OrderOutcome) (m : PortMask) (r : Option (Byte × Byte)) :
    (s.completeOrder o oc m r).plan = s.plan := by
  obtain ⟨_, h⟩ := completeOrder_eq s o oc m r
  rw [h]

theorem completeOrder_scan (s : State) (o : Order) (oc : OrderOutcome) (m : PortMask) (r : Option (Byte × Byte)) :
    (s.completeOrder o oc m r).scan = s.scan := by
  obtain ⟨_, h⟩ := completeOrder_eq s o oc m r
  rw [h]

theorem refuseOrder_ports (s : State) (o : Order) (oc : OrderOutcome) : (s.refuseOrder o oc).ports = s.ports := by
  unfold State.refuseOrder
  split <;> rw [completeOrder_ports]

theorem refuseOrder_plan (s : State) (o : Order) (oc : OrderOutcome) : (s.refuseOrder o oc).plan = s.plan := by
  unfold State.refuseOrder
  split <;> rw [completeOrder_plan]

theorem refuseOrder_scan (s : State) (o : Order) (oc : OrderOutcome) : (s.refuseOrder o oc).scan = s.scan := by
  unfold State.refuseOrder
  split <;> rw [completeOrder_scan]

/-! ### Loops over the ports -/

theorem allPorts_nodup : allPorts.Nodup := by decide

theorem mem_allPorts (q : PortId) : q ∈ allPorts := by revert q; decide

/-- What a loop over ports does at port `q` when each turn is an event of its own port: the turns before `q`, the turn of `q`, the
turns after it. -/
theorem forPorts_at {f : PortId → State → State} (hf : ∀ p s, PortEvent p s (f p s)) :
    ∀ (ps : List PortId) (s : State), ps.Nodup →
      (q ∉ ps → SameButGrant (s.port q) ((forPorts ps f s).port q)) ∧
      (q ∈ ps → ∃ u, SameHost s u ∧ SameButGrant (s.port q) (u.port q) ∧
        SameHost (f q u) (forPorts ps f s) ∧ SameButGrant ((f q u).port q) ((forPorts ps f s).port q)) := by
  intro ps
  induction ps with
  | nil => exact fun s _ => ⟨fun _ => SameButGrant.refl _, fun h => nomatch h⟩
  | cons p ps ih =>
    intro s hn
    have hp : p ∉ ps := (List.nodup_cons.1 hn).1
    obtain ⟨i1, i2⟩ := ih (f p s) (List.nodup_cons.1 hn).2
    have rest : ∀ v, SameHost v (forPorts ps f v) := fun v => SameHost.forPorts (fun p s => (hf p s).1) ps v
    constructor
    · intro h
      have hq : q ≠ p := fun e => h (e ▸ List.mem_cons_self ..)
      exact ((hf p s).2 q hq).trans (i1 fun m => h (List.mem_cons_of_mem _ m))
    · intro h
      by_cases hq : q = p
      · subst hq
        exact ⟨s, SameHost.refl s, SameButGrant.refl _, rest _, i1 hp⟩
      · have hm : q ∈ ps := by
          rcases List.mem_cons.1 h with e | e
          · exact absurd e hq
          · exact e
        obtain ⟨v, h1, h2, h3, h4⟩ := i2 hm
        exact ⟨v, (hf p s).1.trans h1, ((hf p s).2 q hq).trans h2, h3, h4⟩

/-- What the turns of a mask order do at port `q` (R174): nothing where it does not take the order or its state does not admit it;
else its own turn, among the turns of others. The applied mask gains `q` exactly in the second case. -/
theorem takeAtPorts_at {admits : PortState → Bool} {act : PortId → State → State} (hf : ∀ p s, PortEvent p s (act p s))
    (ports : PortMask) (s : State) (applied : PortMask) (q : PortId) :
    let r := takeAtPorts admits act ports s applied
    ∃ u, SameHost s u ∧ SameButGrant (s.port q) (u.port q) ∧
      (maskHas ports q = true → admits (s.portState q) = true →
        SameHost (act q u) r.1 ∧ SameButGrant ((act q u).port q) (r.1.port q) ∧ maskHas r.2 q = true) ∧
      (maskHas ports q = false ∨ admits (s.portState q) = false →
        SameHost u r.1 ∧ SameButGrant (u.port q) (r.1.port q) ∧ maskHas r.2 q = maskHas applied q) := by
  let f : State × PortMask → PortId → State × PortMask :=
    fun acc p => if maskHas ports p then takeAt admits act p acc else acc
  have turn : ∀ p acc, PortEvent p acc.1 (f acc p).1 := by
    intro p acc
    dsimp only [f]
    unfold takeAt
    split
    · split
      · exact hf p acc.1
      · exact PortEvent.refl
    · exact PortEvent.refl
  have state : ∀ {a b : State} {x : PortId}, SameButGrant (a.port x) (b.port x) → b.portState x = a.portState x := by
    intro a b x h
    have := congrArg (fun y : Port => y.ctx.state) h
    exact this
  have bits : ∀ p acc, p ≠ q → maskHas (f acc p).2 q = maskHas acc.2 q := by
    intro p acc h
    dsimp only [f]
    unfold takeAt
    split
    · split
      · dsimp only
        unfold maskHas portBit
        have hv : p.val ≠ q.val := fun e => h (Fin.ext e)
        rw [BitVec.getLsbD_or, BitVec.getLsbD_shiftLeft]
        by_cases hl : q.val < p.val
        · simp [hl]
        · have : q.val - p.val ≠ 0 := by omega
          simp [this]
      · rfl
    · rfl
  have run : ∀ (ps : List PortId) (acc : State × PortMask), ps.Nodup →
      SameHost acc.1 (ps.foldl f acc).1 ∧
      (q ∉ ps → SameButGrant (acc.1.port q) ((ps.foldl f acc).1.port q) ∧ maskHas (ps.foldl f acc).2 q = maskHas acc.2 q) ∧
      (q ∈ ps → ∃ u m, SameHost acc.1 u ∧ SameButGrant (acc.1.port q) (u.port q) ∧ maskHas m q = maskHas acc.2 q ∧
        SameHost (f (u, m) q).1 (ps.foldl f acc).1 ∧
        SameButGrant ((f (u, m) q).1.port q) ((ps.foldl f acc).1.port q) ∧
        maskHas (ps.foldl f acc).2 q = maskHas (f (u, m) q).2 q) := by
    intro ps
    induction ps with
    | nil => exact fun acc _ => ⟨SameHost.refl _, fun _ => ⟨SameButGrant.refl _, rfl⟩, fun h => nomatch h⟩
    | cons p ps ih =>
      intro acc hn
      have hp : p ∉ ps := (List.nodup_cons.1 hn).1
      obtain ⟨i0, i1, i2⟩ := ih (f acc p) (List.nodup_cons.1 hn).2
      refine ⟨(turn p acc).1.trans i0, ?_, ?_⟩
      · intro h
        have hq : q ≠ p := fun e => h (e ▸ List.mem_cons_self ..)
        obtain ⟨j1, j2⟩ := i1 fun m => h (List.mem_cons_of_mem _ m)
        exact ⟨((turn p acc).2 q hq).trans j1, j2.trans (bits p acc (Ne.symm hq))⟩
      · intro h
        by_cases hq : q = p
        · subst hq
          obtain ⟨j1, j2⟩ := i1 hp
          exact ⟨acc.1, acc.2, SameHost.refl _, SameButGrant.refl _, rfl, i0, j1, j2⟩
        · have hm : q ∈ ps := by
            rcases List.mem_cons.1 h with e | e
            · exact absurd e hq
            · exact e
          obtain ⟨v, m, h1, h2, h3, h4, h5, h6⟩ := i2 hm
          exact ⟨v, m, (turn p acc).1.trans h1, ((turn p acc).2 q hq).trans h2, h3.trans (bits p acc (Ne.symm hq)), h4, h5, h6⟩
  obtain ⟨u, m, h1, h2, h3, h4, h5, h6⟩ := (run allPorts (s, applied) allPorts_nodup).2.2 (mem_allPorts q)
  have hu : u.portState q = s.portState q := state h2
  refine ⟨u, h1, h2, ?_, ?_⟩
  · intro a b
    have e : f (u, m) q = (act q u, m ||| portBit q) := by
      dsimp only [f]
      unfold takeAt
      dsimp only
      rw [if_pos a, hu, if_pos b]
    rw [e] at h4 h5 h6
    refine ⟨h4, h5, h6.trans ?_⟩
    dsimp only
    unfold maskHas portBit
    rw [BitVec.getLsbD_or, BitVec.getLsbD_shiftLeft]
    simp [q.isLt]
  · intro a
    have e : f (u, m) q = (u, m) := by
      dsimp only [f]
      unfold takeAt
      dsimp only
      rcases a with a | a
      · rw [a]; simp
      · rw [hu, a]; simp
    rw [e] at h4 h5 h6
    exact ⟨h4, h5, h6.trans h3⟩

end Sys2Proof.Machine
end

