-- ==== Sys2Proof/Laws/Memory.lean ====
section
/-! SUPPORT. Memory access errors (R176): which accesses may end in one, and what the effect of an order that an error ends leaves of the
walker, the page writer and the writes issued. -/

namespace Sys2Proof.Machine

variable {s t u : State} {p q : PortId}

/-! ### Which access -/

theorem posted_any {a : Access} : s.posted.any (·.belongsTo a) = true ↔ ∃ i ∈ s.issued.drop s.accessesFrom, i.belongsTo a = true := by
  simp [State.posted]

theorem belongsTo_record {r : Address} {i : Issued} :
    i.belongsTo (.recordWrite r) = true ↔ ∃ b : Byte, i = .write (r + 9) [b] := by
  cases i with
  | write x bytes =>
    simp only [Issued.belongsTo, Bool.and_eq_true, beq_iff_eq, List.length_eq_one_iff, Issued.write.injEq]
    exact ⟨fun ⟨h, b, hb⟩ => ⟨b, h, hb⟩, fun ⟨b, h, hb⟩ => ⟨h, b, hb⟩⟩
  | interrupt x y => simp [Issued.belongsTo]

theorem belongsTo_report {i : Issued} : i.belongsTo .reportWrite = true ↔ ∃ x bytes, i = .write x bytes ∧ bytes.length = 128 := by
  cases i with
  | write x bytes => exact ⟨fun h => ⟨x, bytes, rfl, by simpa [Issued.belongsTo] using h⟩, fun ⟨_, _, e, h⟩ => by
      cases e; simpa [Issued.belongsTo] using h⟩
  | interrupt x y => simp [Issued.belongsTo]

theorem belongsTo_page {i : Issued} : i.belongsTo .pageWrite = true ↔ ∃ x bytes, i = .write x bytes ∧ bytes.length = 60 := by
  cases i with
  | write x bytes => exact ⟨fun h => ⟨x, bytes, rfl, by simpa [Issued.belongsTo] using h⟩, fun ⟨_, _, e, h⟩ => by
      cases e; simpa [Issued.belongsTo] using h⟩
  | interrupt x y => simp [Issued.belongsTo]

theorem orderRecord_iff {r : Address} : (s.orderRecord == some r) = true ↔ ∃ o, s.walker.order? = some o ∧ o.address = r := by
  unfold State.orderRecord
  cases s.walker.order? <;> simp

theorem reporting_iff :
    s.reporting = true ↔ ∃ o target p bytes, s.walker.order? = some o ∧ o.stage = .reporting target p bytes := by
  unfold State.reporting
  cases s.walker.order? with
  | none => simp
  | some o => cases h : o.stage <;> simp [h]

theorem fetchPhase_iff {f : FetchPhase} : s.walker.fetchPhase? = some f ↔ ∃ d, s.walker = .fetching f d := by
  cases h : s.walker <;> simp [Walker.fetchPhase?]

/-- The model's test is the access of R176. -/
theorem underWay_iff (a : Access) : s.underWay a = true ↔ AccessUnderWay s a := by
  cases a with
  | linkRead =>
    show (s.walker.fetchPhase? == some .link) = true ↔ _
    rw [beq_iff_eq, fetchPhase_iff]
    rfl
  | recordRead =>
    refine Iff.trans (b := ∃ r, s.walker.fetchPhase? = some (.record r)) ?_ (exists_congr fun r => fetchPhase_iff)
    unfold State.underWay
    cases s.walker.fetchPhase? with
    | none => simp
    | some f => cases f <;> simp
  | takenWrite =>
    refine Iff.trans (b := ∃ r x, s.walker.fetchPhase? = some (.take r x)) ?_ (exists_congr fun r => exists_congr fun x => fetchPhase_iff)
    unfold State.underWay
    cases s.walker.fetchPhase? with
    | none => simp
    | some f => cases f <;> simp
  | recordWrite r =>
    show (s.orderRecord == some r || s.posted.any (·.belongsTo (.recordWrite r))) = true ↔ _
    rw [Bool.or_eq_true, orderRecord_iff, posted_any]
    simp only [belongsTo_record]
    exact or_congr_right ⟨fun ⟨i, hi, b, e⟩ => ⟨b, e ▸ hi⟩, fun ⟨b, h⟩ => ⟨_, h, b, rfl⟩⟩
  | planRead =>
    show (s.walker.order?.isSome && s.plan.load.isSome) = true ↔ _
    rw [Bool.and_eq_true, Option.isSome_iff_ne_none, Option.isSome_iff_ne_none]
    rfl
  | listRead =>
    show (s.walker.order?.isSome && s.readingList) = true ↔ _
    rw [Bool.and_eq_true, Option.isSome_iff_ne_none]
    refine and_congr_right fun _ => ?_
    unfold State.readingList
    cases s.scan.setup <;> simp
  | reportWrite =>
    show (s.reporting || s.posted.any (·.belongsTo .reportWrite)) = true ↔ _
    rw [Bool.or_eq_true, reporting_iff, posted_any]
    simp only [belongsTo_report]
    exact or_congr_right ⟨fun ⟨i, hi, x, b, e, l⟩ => ⟨x, b, e ▸ hi, l⟩, fun ⟨x, b, h, l⟩ => ⟨_, h, x, b, rfl, l⟩⟩
  | pageWrite =>
    show (s.page.busy.isSome || s.posted.any (·.belongsTo .pageWrite)) = true ↔ _
    rw [Bool.or_eq_true, Option.isSome_iff_ne_none, posted_any]
    simp only [belongsTo_page]
    exact or_congr_right ⟨fun ⟨i, hi, x, b, e, l⟩ => ⟨x, b, e ▸ hi, l⟩, fun ⟨x, b, h, l⟩ => ⟨_, h, x, b, rfl, l⟩⟩

/-! ### What the effect of an order leaves alone -/

/-- The walker, the anchor, the page writer but for its marks and the interrupt's address stay, and only interrupts are issued. -/
structure WalkerKept (s t : State) : Prop where
  walker : t.walker = s.walker
  anchor : t.anchor = s.anchor
  msi : t.msi = s.msi
  page : { t.page with dirty := s.page.dirty, headerMark := s.page.headerMark } = s.page
  issued : ∃ n, t.issued = s.issued ++ List.replicate n (.interrupt s.msi.address s.msi.data)

theorem SameHost.walkerKept (h : SameHost s t) : WalkerKept s t := ⟨h.walker, h.anchor, h.msi, h.page, h.issued⟩

theorem WalkerKept.refl (s : State) : WalkerKept s s := (SameHost.refl s).walkerKept

theorem SameHost.setScan (h : SameHost s t) (x : Scheduler) : SameHost s (t.setScan x) :=
  h.trans (PortEvent.refl.setScan (p := 0) x).1

theorem SameHost.stopScan (h : SameHost s t) : SameHost s t.stopScan := by
  unfold State.stopScan
  split
  · exact h
  · exact (h.setScan _).trans (PortEvent.refl.scanDrainTest (p := 0)).1

theorem stopScan_inFlight : s.stopScan.scan.inFlight = s.scan.inFlight := by
  have key : ∀ (v : State) (x : Scheduler), (v.setScan x).scan = x := by
    intro v x
    unfold State.setScan
    split <;> rfl
  unfold State.stopScan State.scanDrainTest
  split
  · rfl
  · split <;> simp [key, Scheduler.stopped]

theorem setScan_scan (x : Scheduler) : (s.setScan x).scan = x := by
  unfold State.setScan
  split <;> rfl

/-- The port that takes a check does so in an event of its own. -/
theorem portTakesCheck_event {k : ScanKind} {n : Nat} (hc : ∀ c, s.scan.inFlight = some c → c.port = p) :
    PortEvent p s (s.portTakesCheck p k n) := by
  have e : ∀ r, PortEvent p s (s.endCheck r) := fun r => PortEvent.refl.endCheck r hc
  cases k with
  | line =>
    show PortEvent p s (s.checkLine p)
    unfold State.checkLine
    dsimp only
    split
    · exact e _
    · split
      · exact .refl
      · exact e _
  | peer =>
    show PortEvent p s (s.checkPeer p n)
    unfold State.checkPeer
    split
    · exact e _
    · split
      · exact PortEvent.refl.queueMessage _
      · exact e _
  | delay =>
    show PortEvent p s (s.checkDelay p)
    unfold State.checkDelay
    split
    · exact PortEvent.refl.startJob _
    · exact e _
  | counts =>
    show PortEvent p s (s.checkCounts p)
    unfold State.checkCounts
    dsimp only
    have h1 : PortEvent p s (s.markDirty p) := PortEvent.refl.markDirty p
    split
    · exact e _
    · split
      · have h2 : PortEvent p s ((s.markDirty p).budgetCause p) := h1.budgetCause
        have hs : ((s.markDirty p).budgetCause p).scan = s.scan := by
          unfold State.budgetCause State.setFlagIf State.setFlag
          dsimp only
          split
          · rfl
          · split <;> simp
        have h3 := h2.endCheck .copied (fun c h => hc c (by rw [← hs]; exact h))
        split
        · exact h3.fault _
        · exact h3
      · exact h1.endCheck .copied hc
  | expect =>
    show PortEvent p s (s.checkExpect p)
    unfold State.checkExpect
    have hs : ∀ b f, (s.setFlagIf b p f).scan = s.scan := by
      intro b f
      unfold State.setFlagIf State.setFlag
      split <;> simp
    split
    · exact (PortEvent.refl.setFlagIf _ _).endCheck _ (fun c h => hc c (by rw [← hs]; exact h))
    · exact e _

/-- A start trigger leaves the host's side alone (R155). -/
theorem SameHost.startTrigger (h : SameHost s t) : SameHost s t.startTrigger := by
  have take : ∀ v : State, SameHost v v.takeEntry := by
    intro v
    unfold State.takeEntry
    split
    · exact .refl v
    · exact (SameHost.ofScan _).trans (PortEvent.refl.advancePointer (p := 0)).scanDrainTest.1
    · next x k hx =>
      unfold State.handCheck
      dsimp only
      refine (SameHost.ofScan _).trans ((SameHost.ofScan _).trans (portTakesCheck_event (p := x) fun c hc => ?_).1)
      cases hc
      rfl
  have tick : ∀ v : State, SameHost v v.scanTick := by
    intro v
    unfold State.scanTick
    split
    · exact .refl v
    · split
      · exact (SameHost.refl v).setScan _
      · exact take v
  unfold State.startTrigger
  split
  · exact (h.setScan _).trans (tick _)
  · exact h

theorem SameHost.maskEffect {act : PortId → State → State} (o : Order) (ha : ∀ p s, SameHost s (act p s)) :
    SameHost s (s.maskEffect o act) := SameHost.takeAtPorts ha _ _ _

theorem installEntries_kept (es : Vector Entry 24) : WalkerKept s (s.installEntries es) where
  walker := rfl
  anchor := rfl
  msi := rfl
  page := rfl
  issued := ⟨0, (List.append_nil s.issued).symm⟩

theorem installWatch_kept (a : WatchMode × PortMask × PortMask × Nat) : WalkerKept s (s.installWatch a) where
  walker := rfl
  anchor := rfl
  msi := rfl
  page := rfl
  issued := ⟨0, (List.append_nil s.issued).symm⟩

theorem patchEffect_kept (o : Order) : WalkerKept s (s.patchEffect o) := by
  unfold State.patchEffect
  dsimp only
  split
  · exact installEntries_kept _
  · exact .refl s

theorem watchEffect_kept (o : Order) : WalkerKept s (s.watchEffect o) := by
  unfold State.watchEffect
  split
  · exact installWatch_kept _
  · exact .refl s

/-- The effect of an order that an error ends touches ports, blocks and marks, and issues interrupts alone (R176). -/
theorem lateEffect_kept (o : Order) : WalkerKept s (s.lateEffect o) := by
  unfold State.lateEffect
  split
  · exact .refl s
  · split
    · exact (SameHost.maskEffect o fun _ _ => (PortEvent.refl.restartPort).1).walkerKept
    · exact (SameHost.maskEffect o fun _ _ => (PortEvent.refl.goTo _).1).walkerKept
    · exact (SameHost.maskEffect o fun _ _ => (PortEvent.refl.releaseAt).1).walkerKept
    · exact (SameHost.maskEffect o fun _ _ => (PortEvent.refl.goTo _).1).walkerKept
    · exact (SameHost.maskEffect o fun _ _ => (PortEvent.refl.clearRetriesAt).1).walkerKept
    · split
      · exact .refl s
      · exact (SameHost.maskEffect o fun _ _ => (PortEvent.refl.clearFlagsAt _).1).walkerKept
    · exact (SameHost.maskEffect o fun _ _ => (PortEvent.refl.handoverAt).1).walkerKept
    · exact (SameHost.maskEffect o fun _ _ => (PortEvent.refl.withdrawAt).1).walkerKept
    · exact patchEffect_kept o
    · exact watchEffect_kept o
    · exact (SameHost.refl s).startTrigger.walkerKept
    · exact (SameHost.refl s).stopScan.walkerKept
    · exact .refl s

/-- A setup that an error ends: no list, IDLE, the check in flight going on, and nothing else but marks (R154, R176). -/
theorem abandonSetup_leaves : SameHost s s.abandonSetup ∧ s.abandonSetup.ports = s.ports ∧
    s.abandonSetup.scan.list = [] ∧ s.abandonSetup.scan.state = .idle ∧ s.abandonSetup.scan.pacerOn = false ∧
    s.abandonSetup.scan.setup = none ∧ s.abandonSetup.scan.inFlight = s.scan.inFlight := by
  have hp : ∀ (v : State) (x : Scheduler), (v.setScan x).ports = v.ports := by
    intro v x
    unfold State.setScan
    split <;> rfl
  have hs : s.stopScan.ports = s.ports := by
    unfold State.stopScan State.scanDrainTest
    split
    · rfl
    · split <;> simp [hp]
  unfold State.abandonSetup
  refine ⟨(SameHost.refl s).stopScan.setScan _, (hp _ _).trans hs, ?_⟩
  rw [setScan_scan]
  exact ⟨rfl, rfl, rfl, rfl, stopScan_inFlight⟩

theorem abandonTimed_kept (k : OrderKind) : WalkerKept s (s.abandonTimed k) := by
  cases k <;> first | exact abandonSetup_leaves.1.walkerKept | exact ⟨rfl, rfl, rfl, rfl, 0, by simp [State.abandonTimed]⟩

theorem WalkerKept.trans (h : WalkerKept s t) (k : WalkerKept t u) : WalkerKept s u where
  walker := k.walker.trans h.walker
  anchor := k.anchor.trans h.anchor
  msi := k.msi.trans h.msi
  page := by
    have h1 := h.page
    rw [← k.page] at h1
    exact h1
  issued := by
    obtain ⟨n, hn⟩ := h.issued
    obtain ⟨m, hm⟩ := k.issued
    exact ⟨n + m, by rw [hm, hn, h.msi, List.append_assoc, List.replicate_append_replicate]⟩

/-- What becomes of the order in progress (R176): its effect, then the one write of MEMORY_FAULT, unless the error was on its record. -/
theorem abandonOrder_eq (a : Access) (o : Order) (h : s.walker.order? = some o) :
    s.abandonOrder a = { (s.lateEffect o).abandonTimed o.kind with
      issued := ((s.lateEffect o).abandonTimed o.kind).issued ++
        (if a = .recordWrite o.address then [] else [.write (o.address + 10) [5]]) } := by
  unfold State.abandonOrder
  rw [h]
  dsimp only
  split
  · simp
  · rfl

end Sys2Proof.Machine
end

