-- ==== Sys2Proof/Laws/Pool.lean ====
section
/-! SUPPORT. The exercisers and their holders (R120 to R124, R130): what leaves them alone, and that grants, returns and state entries
keep the Pool's owners and queue, and the lane selector codes, as R121 to R124 say. -/

namespace Sys2Proof.Machine

variable {p q : PortId} {s t u : State}

/-! ### What leaves the Pool and its holders alone -/

/-- The Pool, and at every port the state, the exerciser held and the lane selector code, are as they were. -/
structure SamePool (s t : State) : Prop where
  pool : t.pool = s.pool
  state : ∀ q, t.portState q = s.portState q
  held : ∀ q, (t.ctx q).heldExerciser = (s.ctx q).heldExerciser
  code : ∀ q, (t.port q).selectorCode = (s.port q).selectorCode

theorem SamePool.refl (s : State) : SamePool s s := ⟨rfl, fun _ => rfl, fun _ => rfl, fun _ => rfl⟩

theorem SamePool.trans (h : SamePool s t) (k : SamePool t u) : SamePool s u :=
  ⟨k.pool.trans h.pool, fun q => (k.state q).trans (h.state q), fun q => (k.held q).trans (h.held q),
    fun q => (k.code q).trans (h.code q)⟩

/-- States with the same ports and the same Pool. -/
theorem SamePool.ofPorts (hp : t.ports = s.ports) (hl : t.pool = s.pool) : SamePool s t := by
  have h : ∀ q, t.port q = s.port q := fun q => by unfold State.port; rw [hp]
  exact ⟨hl, fun q => by unfold State.portState State.ctx; rw [h], fun q => by unfold State.ctx; rw [h], fun q => by rw [h]⟩

theorem SamePool.updPort (h : SamePool s t) (f : Port → Port) (hs : ∀ x, (f x).ctx.state = x.ctx.state)
    (hh : ∀ x, (f x).ctx.heldExerciser = x.ctx.heldExerciser) (hc : ∀ x, (f x).selectorCode = x.selectorCode) :
    SamePool s (t.updPort p f) := by
  have e : ∀ q, (t.updPort p f).port q = if q = p then f (t.port q) else t.port q := by
    intro q
    split
    · next e => rw [e, port_updPort_same]
    · next e => rw [port_updPort_ne _ _ _ _ e]
  refine h.trans ⟨rfl, fun q => ?_, fun q => ?_, fun q => ?_⟩
  · unfold State.portState State.ctx; rw [e]; split <;> simp [hs]
  · unfold State.ctx; rw [e]; split <;> simp [hh]
  · rw [e]; split <;> simp [hc]

theorem SamePool.markDirty (h : SamePool s t) (q : PortId) : SamePool s (t.markDirty q) := h.trans (.ofPorts rfl rfl)

theorem SamePool.markHeader (h : SamePool s t) : SamePool s t.markHeader := h.trans (.ofPorts rfl rfl)

theorem SamePool.scan (h : SamePool s t) (x : Scheduler) : SamePool s { t with scan := x } := h.trans (.ofPorts rfl rfl)

theorem SamePool.updCtx (h : SamePool s t) (f : Context → Context) (hs : ∀ c, (f c).state = c.state)
    (hh : ∀ c, (f c).heldExerciser = c.heldExerciser) : SamePool s (t.updCtx p f) := by
  unfold State.updCtx
  split
  · exact h
  · have h1 : SamePool s (t.updPort p fun x => { x with ctx := f x.ctx }) := h.updPort _ (fun _ => hs _) (fun _ => hh _) fun _ => rfl
    exact h1.markDirty p

theorem SamePool.setFlagIf (h : SamePool s t) (b : Bool) (f : Flag) : SamePool s (t.setFlagIf b p f) := by
  unfold State.setFlagIf State.setFlag
  split
  · exact h.updCtx _ (fun _ => rfl) fun _ => rfl
  · exact h

theorem SamePool.updMeter (h : SamePool s t) (f : Meter → Meter) : SamePool s (t.updMeter p f) :=
  h.updPort _ (fun _ => rfl) (fun _ => rfl) fun _ => rfl

theorem SamePool.updTimers (h : SamePool s t) (f : Timers → Timers) : SamePool s (t.updTimers p f) :=
  h.updPort _ (fun _ => rfl) (fun _ => rfl) fun _ => rfl

theorem SamePool.queueMessage (h : SamePool s t) (m : Message) : SamePool s (t.queueMessage p m) :=
  h.updPort _ (fun _ => rfl) (fun _ => rfl) fun _ => rfl

theorem SamePool.setReady (h : SamePool s t) : SamePool s (t.setReady p) :=
  h.updPort _ (fun _ => rfl) (fun _ => rfl) fun _ => rfl

theorem SamePool.turnOn (h : SamePool s t) : SamePool s (t.turnOn p) :=
  h.updPort _ (fun _ => rfl) (fun _ => rfl) fun _ => rfl

theorem SamePool.setSummary (h : SamePool s t) (b : SummaryBit) : SamePool s (t.setSummary b) :=
  h.trans (.ofPorts (setSummary_ports _ _) (setSummary_pool _ _))

theorem SamePool.setScan (h : SamePool s t) (x : Scheduler) : SamePool s (t.setScan x) := by
  unfold State.setScan
  split
  · exact h.scan x
  · exact (h.scan x).markHeader

theorem SamePool.scanDrainTest (h : SamePool s t) : SamePool s t.scanDrainTest := by
  unfold State.scanDrainTest
  split
  · exact h.setScan _
  · exact h

theorem SamePool.passComplete (h : SamePool s t) : SamePool s t.passComplete := by
  unfold State.passComplete
  dsimp only
  split
  · exact ((h.setScan _).setSummary _).setScan _
  · exact (h.setScan _).setSummary _

theorem SamePool.advancePointer (h : SamePool s t) : SamePool s t.advancePointer := by
  unfold State.advancePointer
  split
  · exact h
  · split
    · exact h.setScan _
    · exact h.passComplete

theorem SamePool.endCheck (h : SamePool s t) (r : ScanResult) : SamePool s (t.endCheck r) := by
  unfold State.endCheck
  split
  · exact h
  · next c hc =>
    have h1 : SamePool s (t.recordCheck c r) := by
      have h2 := h.updCtx (p := c.port) (fun x => { x with lastScanKind := some c.kind, scanResult := r, scanPass := c.pass })
        (fun _ => rfl) fun _ => rfl
      exact h2.markDirty _
    exact (h1.scan _).advancePointer.scanDrainTest

theorem SamePool.endCheckOn (h : SamePool s t) (k : ScanKind) (r : ScanResult) : SamePool s (t.endCheckOn p k r) := by
  unfold State.endCheckOn
  split
  · exact h.endCheck r
  · exact h

theorem SamePool.meterClear (h : SamePool s t) : SamePool s (t.meterClear p) := by
  unfold State.meterClear
  dsimp only
  split
  · exact (h.updMeter _).endCheckOn _ _
  · exact h.updMeter _

theorem SamePool.startJob (h : SamePool s t) (k : JobKind) : SamePool s (t.startJob p k) := by
  unfold State.startJob
  split
  · exact h.updMeter _
  · dsimp only
    split
    · exact (h.updMeter _).endCheckOn _ _
    · exact h.updMeter _

theorem SamePool.turnOff (h : SamePool s t) : SamePool s (t.turnOff p) := by
  have h1 : SamePool s (t.updPort p Port.turnedOff) := h.updPort _ (fun _ => rfl) (fun _ => rfl) fun _ => rfl
  exact h1.meterClear

theorem SamePool.leaveIdentity (h : SamePool s t) : SamePool s (t.leaveIdentity p) := by
  refine h.trans (.ofPorts ?_ ?_) <;> unfold State.leaveIdentity State.setIdentityQueue <;> dsimp only <;>
    split <;> split <;> (try split) <;> rfl

theorem SamePool.checkOnEntry (h : SamePool s t) (st : PortState) : SamePool s (t.checkOnEntry p st) := by
  unfold State.checkOnEntry
  split
  · exact h
  · split
    · exact h
    · split
      · split
        · exact h.endCheck _
        · split
          · exact h
          · exact h.endCheck _
      · split
        · exact h
        · exact h.endCheck _
      · split
        · exact h
        · exact (h.updMeter _).endCheck _
      · exact h.endCheck _

theorem SamePool.dropForwarded (h : SamePool s t) : SamePool s (t.dropForwarded p) := by
  unfold State.dropForwarded
  dsimp only
  have h1 : ∀ l, SamePool s (t.updPort p fun x => { x with channel := { x.channel with queue := l } }) := fun _ =>
    h.updPort _ (fun _ => rfl) (fun _ => rfl) fun _ => rfl
  have h2 : ∀ n, SamePool s ((t.updPort p fun x => { x with channel := { x.channel with
      queue := (t.port p).channel.queue.filter fun m => !m.isForwarded } }).updCtx p fun c =>
        { c with relayDrops := Nat.min 65535 (c.relayDrops + n) }) := fun _ =>
    (h1 _).updCtx _ (fun _ => rfl) fun _ => rfl
  exact h2 _

/-! ### What keeps the two invariants -/

theorem PoolInv.same (h : PoolInv s) (k : SamePool s t) : PoolInv t where
  owned e g hg := by rw [k.held]; exact h.owned e g (by rw [← k.pool]; exact hg)
  held q e hq := by rw [k.pool]; exact h.held q e (by rw [← k.held]; exact hq)
  waits q hq := by rw [k.pool] at hq ⊢; rw [k.held]; exact h.waits q hq
  asks q hq := by rw [k.pool] at hq; rw [k.held]; exact h.asks q hq
  exercise q hq := by rw [k.pool, k.held] at hq; rw [k.state]; exact h.exercise q hq
  once := by rw [k.pool]; exact h.once
  idle e he := by rw [k.pool] at he ⊢; exact h.idle e he

theorem SelectorInv.same (h : SelectorInv s) (k : SamePool s t) : SelectorInv t := fun q => by rw [k.code, k.held]; exact h q

/-- Port `p` has no part in the Pool: it holds, awaits and asks for nothing. -/
structure Outside (p : PortId) (s : State) : Prop where
  held : (s.ctx p).heldExerciser = none
  queue : p ∉ s.pool.queue
  requests : p ∉ s.pool.requests

theorem Outside.same (h : Outside p s) (k : SamePool s t) : Outside p t :=
  ⟨(k.held p).trans h.held, by rw [k.pool]; exact h.queue, by rw [k.pool]; exact h.requests⟩

/-! ### Grants and returns -/

/-- What the parts of a grant or a return do to the Pool and its holders: owners, requests and queue replaced, and at port `p` the exerciser
held with its selector code. -/
structure Granted (p : PortId) (e : Option ExerciserId) (s t : State) : Prop where
  held : (t.ctx p).heldExerciser = e
  code : (t.port p).selectorCode = e
  others : ∀ q, q ≠ p → (t.ctx q).heldExerciser = (s.ctx q).heldExerciser ∧ (t.port q).selectorCode = (s.port q).selectorCode
  state : ∀ q, t.portState q = s.portState q

theorem setSelector_port (c : Option ExerciserId) :
    ((s.setSelector p c).port p) = { s.port p with selectorCode := c } ∧
      (∀ q, q ≠ p → (s.setSelector p c).port q = s.port q) ∧ (s.setSelector p c).pool = s.pool := by
  unfold State.setSelector
  split
  · next h =>
    refine ⟨?_, fun _ _ => rfl, rfl⟩
    rw [← h]
  · refine ⟨?_, fun q hq => ?_, rfl⟩
    · show (s.updPort p fun x => { x with selectorCode := c }).port p = _
      rw [port_updPort_same]
    · show (s.updPort p fun x => { x with selectorCode := c }).port q = _
      rw [port_updPort_ne _ _ _ _ hq]

/-- A grant (R121): the new grant record at the exerciser, and the port that holds it. -/
theorem grantExerciser_granted (e : ExerciserId) :
    Granted p (some e) s (s.grantExerciser e p) ∧
      (s.grantExerciser e p).pool =
        { s.pool with owners := s.pool.owners.set e (some (newGrant p (s.entry p).lanes)) } := by
  unfold State.grantExerciser
  dsimp only
  generalize hv : (s.setOwner e (some (newGrant p (s.entry p).lanes))).markHeader = v
  have hp : ∀ q, v.port q = s.port q := by rw [← hv]; exact fun _ => rfl
  have hl : v.pool = { s.pool with owners := s.pool.owners.set e (some (newGrant p (s.entry p).lanes)) } := by rw [← hv]; rfl
  obtain ⟨h1, h2, h3⟩ := setSelector_port (s := v) (p := p) (some e)
  generalize v.setSelector p (some e) = w at h1 h2 h3 ⊢
  refine ⟨⟨?_, ?_, fun q hq => ?_, fun q => ?_⟩, ?_⟩
  · unfold State.ctx
    rw [port_updPort_same, port_updCtx_same]
  · rw [port_updPort_same, port_updCtx_same]
    show (w.port p).selectorCode = _
    rw [h1]
  · unfold State.ctx
    rw [port_updPort_ne _ _ _ _ hq, port_updCtx_ne _ _ _ _ hq, h2 q hq, hp]
    exact ⟨rfl, rfl⟩
  · by_cases hq : q = p
    · subst hq
      unfold State.portState State.ctx
      rw [port_updPort_same, port_updCtx_same]
      show (w.port q).ctx.state = _
      rw [h1, hp]
    · unfold State.portState State.ctx
      rw [port_updPort_ne _ _ _ _ hq, port_updCtx_ne _ _ _ _ hq, h2 q hq, hp]
  · rw [updPort_pool, updCtx_pool, h3, hl]

/-- Steps 1 to 3 of a return (R122): the exerciser has no owner and the port holds none. -/
theorem dropGrant_granted (e : ExerciserId) :
    Granted p none s (s.dropGrant e p) ∧ (s.dropGrant e p).pool = { s.pool with owners := s.pool.owners.set e none } := by
  unfold State.dropGrant
  dsimp only
  generalize hv : (s.setOwner e none).markHeader = v
  have hp : ∀ q, v.port q = s.port q := by rw [← hv]; exact fun _ => rfl
  have hl : v.pool = { s.pool with owners := s.pool.owners.set e none } := by rw [← hv]; rfl
  generalize hw : (v.updCtx p fun x => { x with heldExerciser := none }).updPort p
    (fun x => { x with timers := { x.timers with peerStart := none } }) = w
  have hwp : w.port p = { s.port p with ctx := { s.ctx p with heldExerciser := none },
                                        timers := { (s.port p).timers with peerStart := none } } := by
    rw [← hw, port_updPort_same, port_updCtx_same]
    unfold State.ctx
    rw [hp]
  have hwq : ∀ q, q ≠ p → w.port q = s.port q := fun q hq => by
    rw [← hw, port_updPort_ne _ _ _ _ hq, port_updCtx_ne _ _ _ _ hq, hp]
  have hwl : w.pool = v.pool := by rw [← hw, updPort_pool, updCtx_pool]
  obtain ⟨h1, h2, h3⟩ := setSelector_port (s := w) (p := p) none
  refine ⟨⟨?_, ?_, fun q hq => ?_, fun q => ?_⟩, ?_⟩
  · unfold State.ctx; rw [h1, hwp]
  · rw [h1]
  · unfold State.ctx; rw [h2 q hq, hwq q hq]; exact ⟨rfl, rfl⟩
  · by_cases hq : q = p
    · subst hq; unfold State.portState State.ctx; rw [h1, hwp]; rfl
    · unfold State.portState State.ctx; rw [h2 q hq, hwq q hq]
  · rw [h3, hwl, hl]

theorem SelectorInv.granted {e : Option ExerciserId} (h : SelectorInv s) (k : Granted p e s t) : SelectorInv t := fun q => by
  by_cases hq : q = p
  · subst hq; rw [k.held, k.code]
  · rw [(k.others q hq).1, (k.others q hq).2]; exact h q

theorem owners_set (v : Vector (Option Grant) 4) (e d : ExerciserId) (x : Option Grant) :
    (v.set e x)[d] = if d = e then x else v[d] := by
  simp only [Fin.getElem_fin, Vector.getElem_set, Fin.ext_iff, eq_comm]

theorem held_cases {e : Option ExerciserId} (k : Granted p e s t) (q : PortId) :
    (t.ctx q).heldExerciser = if q = p then e else (s.ctx q).heldExerciser := by
  split
  · next h => rw [h, k.held]
  · next h => exact (k.others q h).1

/-- Exerciser `e` has just been given up: what `PoolInv` says, but that ports may wait for it while it is free. -/
structure Spare (e : ExerciserId) (s : State) : Prop where
  free : s.pool.owners[e] = none
  owned : ∀ (d : ExerciserId) (g : Grant), s.pool.owners[d] = some g → (s.ctx g.port).heldExerciser = some d
  held : ∀ (q : PortId) (d : ExerciserId), (s.ctx q).heldExerciser = some d → ∃ g, s.pool.owners[d] = some g ∧ g.port = q
  waits : ∀ q ∈ s.pool.queue, (s.ctx q).heldExerciser = none ∧ q ∉ s.pool.requests
  asks : ∀ q ∈ s.pool.requests, (s.ctx q).heldExerciser = none
  exercise : ∀ q, (s.ctx q).heldExerciser ≠ none ∨ q ∈ s.pool.queue ∨ q ∈ s.pool.requests → s.portState q = .exercise
  once : s.pool.queue.Nodup
  others : ∀ d : ExerciserId, d ≠ e → s.pool.owners[d] = none → s.pool.queue.tail = []

/-- The spare exerciser goes to the head of the wait queue (R122 step 4). -/
theorem Spare.dispose {e : ExerciserId} (h : Spare e s) : PoolInv (s.disposeExerciser e) := by
  unfold State.disposeExerciser
  split
  · next hq => exact ⟨h.owned, h.held, h.waits, h.asks, h.exercise, h.once, fun _ _ => hq⟩
  · next q rest hq =>
    generalize hv : s.setWaitQueue rest = v
    have hvc : ∀ r, v.ctx r = s.ctx r := by rw [← hv]; exact fun _ => rfl
    have hvs : ∀ r, v.portState r = s.portState r := by rw [← hv]; exact fun _ => rfl
    have hvp : v.pool = { s.pool with queue := rest } := by rw [← hv]; rfl
    obtain ⟨k, hl⟩ := grantExerciser_granted (s := v) (p := q) e
    rw [hvp] at hl
    generalize v.grantExerciser e q = t at k hl ⊢
    have hheld : ∀ r, (t.ctx r).heldExerciser = if r = q then some e else (s.ctx r).heldExerciser := fun r => by
      rw [held_cases k, hvc]
    have hw := h.waits q (by rw [hq]; exact .head _)
    have hnd : q ∉ rest ∧ rest.Nodup := by have := h.once; rw [hq] at this; exact List.nodup_cons.mp this
    have hown : ∀ d : ExerciserId, t.pool.owners[d] =
        if d = e then some (newGrant q (v.entry q).lanes) else s.pool.owners[d] := fun d => by rw [hl]; exact owners_set _ _ _ _
    refine ⟨fun d g hg => ?_, fun r d hr => ?_, fun r hr => ?_, fun r hr => ?_, fun r hr => ?_, ?_, fun d hd => ?_⟩
    · rw [hown] at hg
      rw [hheld]
      split at hg
      · next hd => cases hg; rw [hd]; exact if_pos rfl
      · have h1 := h.owned d g hg
        rw [if_neg (fun c => by rw [c, hw.1] at h1; cases h1), h1]
    · rw [hheld] at hr
      split at hr
      · next c => cases hr; exact ⟨_, by rw [hown, if_pos rfl], c.symm⟩
      · obtain ⟨g, hg, hp⟩ := h.held r d hr
        refine ⟨g, ?_, hp⟩
        rw [hown, if_neg (fun c => by rw [c, h.free] at hg; cases hg), hg]
    · rw [hl] at hr ⊢
      have hr' : r ∈ s.pool.queue := by rw [hq]; exact .tail _ hr
      rw [hheld, if_neg (fun c : r = q => hnd.1 (c ▸ hr))]
      exact h.waits r hr'
    · rw [hl] at hr
      rw [hheld, if_neg (fun c : r = q => hw.2 (c ▸ hr))]
      exact h.asks r hr
    · rw [k.state, hvs]
      rw [hl, hheld] at hr
      refine h.exercise r ?_
      by_cases c : r = q
      · exact .inr (.inl (by rw [hq, c]; exact .head _))
      · rw [if_neg c] at hr
        exact hr.imp_right (.imp_left (fun m => by rw [hq]; exact .tail _ m))
    · rw [hl]; exact hnd.2
    · rw [hown] at hd
      split at hd
      · cases hd
      · next c =>
        have := h.others d c hd
        rw [hq] at this
        rw [hl]
        exact this

/-- The port that gives an exerciser up leaves it spare. -/
theorem PoolInv.dropGrant {e : ExerciserId} (h : PoolInv s) (he : (s.ctx p).heldExerciser = some e) :
    Spare e (s.dropGrant e p) ∧ Outside p (s.dropGrant e p) ∧ (s.dropGrant e p).pool.queue = s.pool.queue ∧
      (∀ q, (s.dropGrant e p).portState q = s.portState q) ∧
      ∀ d : ExerciserId, d ≠ e → (s.dropGrant e p).pool.owners[d] = s.pool.owners[d] := by
  obtain ⟨k, hl⟩ := dropGrant_granted (s := s) (p := p) e
  generalize s.dropGrant e p = t at k hl ⊢
  have hheld := held_cases k
  have hown : ∀ d : ExerciserId, t.pool.owners[d] = if d = e then none else s.pool.owners[d] := fun d => by
    rw [hl]; exact owners_set _ _ _ _
  have hnq : p ∉ s.pool.queue := fun c => by have := (h.waits p c).1; rw [he] at this; cases this
  have hnr : p ∉ s.pool.requests := fun c => by have := h.asks p c; rw [he] at this; cases this
  refine ⟨⟨by rw [hown, if_pos rfl], fun d g hg => ?_, fun q d hq => ?_, fun q hq => ?_, fun q hq => ?_, fun q hq => ?_, ?_,
    fun d hd hn => ?_⟩, ⟨k.held, by rw [hl]; exact hnq, by rw [hl]; exact hnr⟩, by rw [hl], k.state,
    fun d hd => by rw [hown, if_neg hd]⟩
  · rw [hown] at hg
    split at hg
    · cases hg
    · next hd =>
      have h1 := h.owned d g hg
      rw [hheld, if_neg (fun c => hd (by rw [c, he] at h1; cases h1; rfl)), h1]
  · rw [hheld] at hq
    split at hq
    · cases hq
    · next hp =>
      obtain ⟨g, hg, hgp⟩ := h.held q d hq
      refine ⟨g, ?_, hgp⟩
      rw [hown, if_neg, hg]
      intro c
      obtain ⟨g', hg', hgp'⟩ := h.held p e he
      rw [c, hg'] at hg
      cases hg
      exact hp (hgp.symm.trans hgp')
  · rw [hl] at hq ⊢
    rw [hheld, if_neg (fun c : q = p => hnq (c ▸ hq))]
    exact h.waits q hq
  · rw [hl] at hq
    rw [hheld, if_neg (fun c : q = p => hnr (c ▸ hq))]
    exact h.asks q hq
  · rw [k.state]
    rw [hl, hheld] at hq
    refine h.exercise q (hq.imp_left fun c d => c ?_)
    split
    · rfl
    · exact d
  · rw [hl]; exact h.once
  · rw [hown, if_neg hd] at hn
    rw [hl]
    show s.pool.queue.tail = []
    rw [h.idle d hn]
    rfl

theorem Outside.dispose {e : ExerciserId} (h : Outside p s) : Outside p (s.disposeExerciser e) := by
  unfold State.disposeExerciser
  split
  · exact h
  · next q rest hq =>
    generalize hv : s.setWaitQueue rest = v
    have hvc : ∀ r, v.ctx r = s.ctx r := by rw [← hv]; exact fun _ => rfl
    have hvp : v.pool = { s.pool with queue := rest } := by rw [← hv]; rfl
    obtain ⟨k, hl⟩ := grantExerciser_granted (s := v) (p := q) e
    have hpq : p ≠ q := fun c => h.queue (by rw [hq, c]; exact .head _)
    refine ⟨?_, ?_, ?_⟩
    · rw [(k.others p hpq).1, hvc]; exact h.held
    · rw [hl, hvp]; exact fun c => h.queue (by rw [hq]; exact .tail _ c)
    · rw [hl, hvp]; exact h.requests

theorem disposeExerciser_state (e : ExerciserId) (q : PortId) : (s.disposeExerciser e).portState q = s.portState q := by
  unfold State.disposeExerciser
  split
  · rfl
  · exact (grantExerciser_granted (s := s.setWaitQueue _) e).1.state q

theorem PoolInv.leaveWaitQueue (h : PoolInv s) : PoolInv (s.leaveWaitQueue p) := by
  unfold State.leaveWaitQueue
  dsimp only
  have hr : ∀ q, q ∈ s.pool.requests.filter (· != p) → q ∈ s.pool.requests := fun q hq => (List.mem_filter.mp hq).1
  have hq : ∀ q, q ∈ s.pool.queue.filter (· != p) → q ∈ s.pool.queue := fun q hq => (List.mem_filter.mp hq).1
  split
  · exact ⟨h.owned, h.held, fun q m => ⟨(h.waits q (hq q m)).1, fun c => (h.waits q (hq q m)).2 (hr q c)⟩,
      fun q m => h.asks q (hr q m), fun q m => h.exercise q (m.imp_right (.imp (hq q) (hr q))), h.once.filter _,
      fun e he => by
        show s.pool.queue.filter (· != p) = []
        rw [h.idle e he]
        rfl⟩
  · exact ⟨h.owned, h.held, fun q m => ⟨(h.waits q m).1, fun c => (h.waits q m).2 (hr q c)⟩,
      fun q m => h.asks q (hr q m), fun q m => h.exercise q (m.imp_right (.imp_right (hr q))), h.once, h.idle⟩

theorem leaveWaitQueue_outside (h : (s.ctx p).heldExerciser = none) : Outside p (s.leaveWaitQueue p) := by
  unfold State.leaveWaitQueue
  dsimp only
  have hn : ∀ l : List PortId, p ∉ l.filter (· != p) := fun l c => by simp at c
  split
  · exact ⟨h, hn _, hn _⟩
  · next c => exact ⟨h, c, hn _⟩

/-- A port that gives back its exerciser, or its wait, is outside the Pool (R6 step 2, R122). -/
theorem PoolInv.giveBack (h : PoolInv s) : PoolInv (s.giveBack p) ∧ Outside p (s.giveBack p) ∧
    ∀ q, (s.giveBack p).portState q = s.portState q := by
  unfold State.giveBack
  split
  · next e he =>
    obtain ⟨h1, h2, _, h4, _⟩ := h.dropGrant he
    exact ⟨h1.dispose, h2.dispose, fun q => (disposeExerciser_state e q).trans (h4 q)⟩
  · next hn =>
    refine ⟨h.leaveWaitQueue, leaveWaitQueue_outside hn, fun q => ?_⟩
    unfold State.leaveWaitQueue
    dsimp only
    split <;> rfl

/-- A first or second stall keeps the Pool's owners and queue (R130). -/
theorem PoolInv.requeue {e : ExerciserId} (h : PoolInv s) (he : (s.ctx p).heldExerciser = some e) : PoolInv (s.requeue e p) := by
  obtain ⟨h1, h2, h3, h4, h5⟩ := h.dropGrant he
  have hex : s.portState p = .exercise := h.exercise p (.inl (by rw [he]; simp))
  unfold State.requeue
  dsimp only
  generalize s.dropGrant e p = t at h1 h2 h3 h4 h5 ⊢
  refine Spare.dispose ⟨h1.free, h1.owned, h1.held, fun q hq => ?_, h1.asks, fun q hq => ?_, ?_, fun d hd hn => ?_⟩
  · rcases List.mem_append.mp hq with hq | hq
    · exact h1.waits q hq
    · rw [List.mem_singleton.mp hq]; exact ⟨h2.held, h2.requests⟩
  · show t.portState q = .exercise
    rcases hq with hq | hq | hq
    · exact h1.exercise q (.inl hq)
    · rcases List.mem_append.mp hq with hq | hq
      · exact h1.exercise q (.inr (.inl hq))
      · rw [List.mem_singleton.mp hq, h4, hex]
    · exact h1.exercise q (.inr (.inr hq))
  · show (t.pool.queue ++ [p]).Nodup
    exact List.nodup_append.mpr ⟨h1.once, by simp, fun a ha b hb => by
      rw [List.mem_singleton.mp hb]; exact fun c => h2.queue (c ▸ ha)⟩
  · show (t.pool.queue ++ [p]).tail = []
    rw [h3, h.idle d ((h5 d hd).symm.trans hn)]
    rfl

theorem freeExerciser_some {e : ExerciserId} (h : s.freeExerciser = some e) : s.pool.owners[e] = none := by
  simpa using List.find?_some h

theorem freeExerciser_none (h : s.freeExerciser = none) (e : ExerciserId) : s.pool.owners[e] ≠ none := by
  have hm : e ∈ allExercisers := by revert e; decide
  have := List.find?_eq_none.mp h e hm
  intro c
  rw [c] at this
  exact this rfl

/-- A request taken keeps the Pool's owners and queue (R121). -/
theorem PoolInv.takeRequest (h : PoolInv s) (hp : p ∈ s.pool.requests) : PoolInv (s.takeRequest p) := by
  have hheld := h.asks p hp
  have hex : s.portState p = .exercise := h.exercise p (.inr (.inr hp))
  have hnq : p ∉ s.pool.queue := fun c => (h.waits p c).2 hp
  unfold State.takeRequest
  dsimp only
  generalize hv : { s with pool := { s.pool with requests := s.pool.requests.filter (· != p) } } = v
  have hvq : v.pool.queue = s.pool.queue := by rw [← hv]
  have hvo : v.pool.owners = s.pool.owners := by rw [← hv]
  have hvr : ∀ q, q ∈ v.pool.requests → q ∈ s.pool.requests ∧ q ≠ p := fun q hq => by rw [← hv] at hq; simpa using hq
  have hvc : ∀ q, v.ctx q = s.ctx q := fun q => by rw [← hv]; rfl
  have hvs : ∀ q, v.portState q = s.portState q := fun q => by rw [← hv]; rfl
  split
  · next e he =>
    have hfree := freeExerciser_some he
    rw [hvo] at hfree
    obtain ⟨k, hl⟩ := grantExerciser_granted (s := v) (p := p) e
    generalize v.grantExerciser e p = t at k hl ⊢
    have hown : ∀ d : ExerciserId, t.pool.owners[d] =
        if d = e then some (newGrant p (v.entry p).lanes) else s.pool.owners[d] := fun d => by
      rw [hl, ← hvo]; exact owners_set _ _ _ _
    have hh : ∀ q, (t.ctx q).heldExerciser = if q = p then some e else (s.ctx q).heldExerciser := fun q => by
      rw [held_cases k, hvc]
    have hq : t.pool.queue = [] := by rw [hl]; exact hvq.trans (h.idle e hfree)
    have hr : t.pool.requests = v.pool.requests := by rw [hl]
    refine ⟨fun d g hg => ?_, fun q d hd => ?_, fun q m => ?_, fun q m => ?_, fun q m => ?_, ?_, fun _ _ => hq⟩
    · rw [hown] at hg
      rw [hh]
      split at hg
      · next hd => cases hg; rw [hd]; exact if_pos rfl
      · have h1 := h.owned d g hg
        rw [if_neg (fun c => by rw [c, hheld] at h1; cases h1), h1]
    · rw [hh] at hd
      split at hd
      · next c => cases hd; exact ⟨_, by rw [hown, if_pos rfl], c.symm⟩
      · obtain ⟨g, hg, hgp⟩ := h.held q d hd
        exact ⟨g, by rw [hown, if_neg (fun c => by rw [c, hfree] at hg; cases hg), hg], hgp⟩
    · rw [hq] at m
      cases m
    · rw [hr] at m
      rw [hh, if_neg (hvr q m).2]
      exact h.asks q (hvr q m).1
    · rw [k.state, hvs]
      by_cases c : q = p
      · rw [c, hex]
      · rw [hh, if_neg c, hq, hr] at m
        exact h.exercise q (m.imp_right fun m => .inr (m.elim (fun x => by cases x) fun x => (hvr q x).1))
    · rw [hq]; exact .nil
  · next hn =>
    have hbusy := freeExerciser_none hn
    rw [hvo] at hbusy
    refine ⟨fun d g hg => ?_, fun q d hd => ?_, fun q m => ?_, fun q m => ?_, fun q m => ?_, ?_, fun d hd => ?_⟩
    · show (v.ctx g.port).heldExerciser = _
      rw [hvc]
      exact h.owned d g (by rw [← hvo]; exact hg)
    · have hd' : (v.ctx q).heldExerciser = some d := hd
      rw [hvc] at hd'
      show ∃ g, v.pool.owners[d] = some g ∧ g.port = q
      rw [hvo]
      exact h.held q d hd'
    · show (v.ctx q).heldExerciser = none ∧ q ∉ v.pool.requests
      rw [hvc]
      rcases List.mem_append.mp m with m | m
      · exact ⟨(h.waits q m).1, fun c => (h.waits q m).2 (hvr q c).1⟩
      · rw [List.mem_singleton.mp m]
        exact ⟨hheld, fun c => (hvr p c).2 rfl⟩
    · show (v.ctx q).heldExerciser = none
      rw [hvc]
      exact h.asks q (hvr q m).1
    · show v.portState q = .exercise
      rw [hvs]
      rcases m with m | m | m
      · have m' : (v.ctx q).heldExerciser ≠ none := m
        rw [hvc] at m'
        exact h.exercise q (.inl m')
      · rcases List.mem_append.mp m with m | m
        · exact h.exercise q (.inr (.inl m))
        · rw [List.mem_singleton.mp m, hex]
      · exact h.exercise q (.inr (.inr (hvr q m).1))
    · show (s.pool.queue ++ [p]).Nodup
      exact List.nodup_append.mpr ⟨h.once, by simp, fun a ha b hb => by
        rw [List.mem_singleton.mp hb]; exact fun c => hnq (c ▸ ha)⟩
    · have hd' : v.pool.owners[d] = none := hd
      rw [hvo] at hd'
      exact absurd hd' (hbusy d)

/-- Replacing a grant record by one of the same port keeps the Pool's owners and queue. -/
theorem PoolInv.updGrant (h : PoolInv s) (f : Grant → Grant) (hf : ∀ g, (f g).port = g.port) : PoolInv (s.updGrant p f) := by
  unfold State.updGrant
  split
  · next e _ =>
    have hown : ∀ d : ExerciserId, (s.pool.owners.set e (s.pool.owners[e].map f))[d] =
        if d = e then s.pool.owners[e].map f else s.pool.owners[d] := fun d => owners_set _ _ _ _
    refine ⟨fun d g hg => ?_, fun q d hd => ?_, h.waits, h.asks, h.exercise, h.once, fun d hd => ?_⟩
    · have hg' : (s.pool.owners.set e (s.pool.owners[e].map f))[d] = some g := hg
      rw [hown] at hg'
      split at hg'
      · next c =>
        obtain ⟨g', h1, h2⟩ := Option.map_eq_some_iff.mp hg'
        rw [← h2, hf, c]
        exact h.owned e g' h1
      · exact h.owned d g hg'
    · obtain ⟨g, hg, hp⟩ := h.held q d hd
      show ∃ g, (s.pool.owners.set e (s.pool.owners[e].map f))[d] = some g ∧ g.port = q
      rw [hown]
      split
      · next c => exact ⟨f g, by rw [← c, hg]; rfl, (hf g).trans hp⟩
      · exact ⟨g, hg, hp⟩
    · have hd' : (s.pool.owners.set e (s.pool.owners[e].map f))[d] = none := hd
      rw [hown] at hd'
      split at hd'
      · next c => exact h.idle e (Option.map_eq_none_iff.mp hd')
      · exact h.idle d hd'
  · exact h

/-! ### The selector codes through a return -/

theorem SelectorInv.grantExerciser (h : SelectorInv s) (e : ExerciserId) (q : PortId) : SelectorInv (s.grantExerciser e q) :=
  h.granted (grantExerciser_granted e).1

theorem SelectorInv.disposeExerciser (h : SelectorInv s) (e : ExerciserId) : SelectorInv (s.disposeExerciser e) := by
  unfold State.disposeExerciser
  split
  · exact h
  · next rest _ =>
    have h1 : SelectorInv (s.setWaitQueue rest) := h
    exact h1.granted (grantExerciser_granted e).1

theorem SelectorInv.giveBack (h : SelectorInv s) : SelectorInv (s.giveBack p) := by
  unfold State.giveBack
  split
  · next e _ => exact (h.granted (dropGrant_granted e).1).disposeExerciser e
  · unfold State.leaveWaitQueue
    dsimp only
    split <;> exact h

theorem SelectorInv.requeue (h : SelectorInv s) (e : ExerciserId) : SelectorInv (s.requeue e p) := by
  have h1 := h.granted (dropGrant_granted (p := p) e).1
  have h2 : SelectorInv ((s.dropGrant e p).setWaitQueue ((s.dropGrant e p).pool.queue ++ [p])) := h1
  unfold State.requeue
  exact h2.disposeExerciser e

theorem SelectorInv.takeRequest (h : SelectorInv s) : SelectorInv (s.takeRequest p) := by
  unfold State.takeRequest
  dsimp only
  generalize hv : { s with pool := { s.pool with requests := s.pool.requests.filter (· != p) } } = v
  have hvs : SelectorInv v := by rw [← hv]; exact h
  split
  · exact hvs.grantExerciser _ _
  · exact hvs

/-! ### State entries -/

/-- Both invariants of the Pool go through. -/
structure KeepsPool (s t : State) : Prop where
  pool : PoolInv s → PoolInv t
  selector : SelectorInv s → SelectorInv t

theorem KeepsPool.trans (h : KeepsPool s t) (k : KeepsPool t u) : KeepsPool s u := ⟨k.pool ∘ h.pool, k.selector ∘ h.selector⟩

theorem SamePool.keeps (h : SamePool s t) : KeepsPool s t := ⟨fun k => k.same h, fun k => k.same h⟩

theorem KeepsPool.same (h : KeepsPool s t) (k : SamePool t u) : KeepsPool s u := h.trans k.keeps

/-- What a port does before an entry: both invariants, and the port outside the Pool. -/
theorem leave_keeps (st : PortState) : KeepsPool s (s.leave p st) ∧ (PoolInv s → Outside p (s.leave p st)) := by
  have h1 : SamePool s (if s.portState p = .handed then s.updPort p Port.handoverOff else s) := by
    split
    · exact (SamePool.refl s).updPort _ (fun _ => rfl) (fun _ => rfl) fun _ => rfl
    · exact .refl s
  unfold State.leave
  dsimp only
  generalize (if s.portState p = .handed then s.updPort p Port.handoverOff else s) = v at h1 ⊢
  have h2 : SamePool (v.giveBack p) ((v.giveBack p).leaveIdentity p) := (SamePool.refl _).leaveIdentity
  generalize (v.giveBack p).leaveIdentity p = w at h2 ⊢
  have h3 : SamePool w (if (w.port p).framer.tx.isSome && !st.transmits then w.turnOff p else w) := by
    split
    · exact (SamePool.refl w).turnOff
    · exact .refl w
  generalize (if (w.port p).framer.tx.isSome && !st.transmits then w.turnOff p else w) = x at h3 ⊢
  have h4 : SamePool (v.giveBack p) (x.updPort p fun y => { y with timers := y.timers.left (s.portState p) st }) :=
    (h2.trans h3).updPort _ (fun _ => rfl) (fun _ => rfl) fun _ => rfl
  exact ⟨⟨fun k => ((k.same h1).giveBack.1).same h4, fun k => ((k.same h1).giveBack).same h4⟩,
    fun k => ((k.same h1).giveBack.2.1).same h4⟩

/-- The entry itself changes the state of a port that is outside the Pool. -/
theorem recordEntry_keeps (st : PortState) :
    (PoolInv s → Outside p s → PoolInv (s.recordEntry p st) ∧ Outside p (s.recordEntry p st)) ∧
      (SelectorInv s → SelectorInv (s.recordEntry p st)) := by
  unfold State.recordEntry
  generalize hv : s.updPort p (fun x => x.entered st s.ms) = v
  have hk : SamePool v ((v.markDirty p).setSummary .portChange) := ((SamePool.refl v).markDirty p).setSummary _
  have hpool : v.pool = s.pool := by rw [← hv]; rfl
  have hheld : ∀ q, (v.ctx q).heldExerciser = (s.ctx q).heldExerciser := fun q => by
    rw [← hv]
    unfold State.ctx
    by_cases e : q = p
    · rw [e, port_updPort_same]; rfl
    · rw [port_updPort_ne _ _ _ _ e]
  have hcode : ∀ q, (v.port q).selectorCode = (s.port q).selectorCode := fun q => by
    rw [← hv]
    by_cases e : q = p
    · rw [e, port_updPort_same]; rfl
    · rw [port_updPort_ne _ _ _ _ e]
  have hstate : ∀ q, q ≠ p → v.portState q = s.portState q := fun q e => by
    rw [← hv]
    unfold State.portState State.ctx
    rw [port_updPort_ne _ _ _ _ e]
  refine ⟨fun h o => ?_, fun h => SelectorInv.same (fun q => by rw [hcode, hheld]; exact h q) hk⟩
  have ho : Outside p v := ⟨(hheld p).trans o.held, by rw [hpool]; exact o.queue, by rw [hpool]; exact o.requests⟩
  refine ⟨PoolInv.same ⟨fun d g hg => ?_, fun q d hd => ?_, fun q m => ?_, fun q m => ?_, fun q m => ?_, ?_, fun d hd => ?_⟩ hk,
    ho.same hk⟩
  · rw [hheld]; exact h.owned d g (by rw [← hpool]; exact hg)
  · rw [hpool]; exact h.held q d (by rw [← hheld]; exact hd)
  · rw [hpool] at m ⊢; rw [hheld]; exact h.waits q m
  · rw [hpool] at m; rw [hheld]; exact h.asks q m
  · have hne : q ≠ p := fun e => by
      rw [e] at m
      exact m.elim (fun x => x ho.held) fun x => x.elim ho.queue ho.requests
    rw [hstate q hne]
    rw [hpool, hheld] at m
    exact h.exercise q m
  · rw [hpool]; exact h.once
  · rw [hpool] at hd ⊢; exact h.idle d hd

/-- A state entry keeps both invariants and leaves the port outside the Pool. -/
theorem enter_keeps (st : PortState) : KeepsPool s (s.enter p st) ∧ (PoolInv s → Outside p (s.enter p st)) := by
  obtain ⟨h1, h2⟩ := leave_keeps (s := s) (p := p) st
  obtain ⟨h3, h4⟩ := recordEntry_keeps (s := s.leave p st) (p := p) st
  have k : SamePool ((s.leave p st).recordEntry p st) (s.enter p st) := by
    have k1 := ((SamePool.refl ((s.leave p st).recordEntry p st)).checkOnEntry (p := p) st).updMeter (p := p)
      fun m => m.endJobsOutside st
    unfold State.enter
    dsimp only
    split
    · exact k1.dropForwarded
    · exact k1
  exact ⟨⟨fun h => (h3 (h1.pool h) (h2 h)).1.same k, fun h => (h4 (h1.selector h)).same k⟩,
    fun h => (h3 (h1.pool h) (h2 h)).2.same k⟩

theorem KeepsPool.enter (h : KeepsPool s t) (st : PortState) : KeepsPool s (t.enter p st) := h.trans (enter_keeps st).1

theorem KeepsPool.enterGreet (h : KeepsPool s t) : KeepsPool s (t.enterGreet p) := by
  have h1 : SamePool (t.enter p .greet) ((t.enter p .greet).updPort p fun x => { x with
      helloDelivered := false, helloHeard := false, timers := { x.timers with greet := some 0 } }) :=
    (SamePool.refl _).updPort _ (fun _ => rfl) (fun _ => rfl) fun _ => rfl
  unfold State.enterGreet
  exact (h.enter .greet).same (h1.queueMessage _)

theorem KeepsPool.enterRelaying (h : KeepsPool s t) : KeepsPool s (t.enterRelaying p) := by
  unfold State.enterRelaying
  exact (h.enter .relaying).same ((SamePool.refl _).startJob _)

theorem KeepsPool.lockInListen (h : KeepsPool s t) : KeepsPool s (t.lockInListen p) := by
  unfold State.lockInListen
  split
  · exact h.enterRelaying
  · exact h.enterGreet

theorem KeepsPool.enterListen (h : KeepsPool s t) : KeepsPool s (t.enterListen p) := by
  have h1 := (h.enter (p := p) .listen).same
    ((((SamePool.refl (t.enter p .listen)).updCtx (p := p) Context.listening (fun _ => rfl) fun _ => rfl).meterClear
      (p := p)).updTimers (p := p) fun t => { t with lockSearch := some 0 })
  unfold State.enterListen
  dsimp only
  split <;> split
  · exact h1.lockInListen
  · exact h1
  · exact (h1.same ((SamePool.refl _).turnOn)).lockInListen
  · exact h1.same ((SamePool.refl _).turnOn)

theorem KeepsPool.enterMeasure (h : KeepsPool s t) : KeepsPool s (t.enterMeasure p) := by
  unfold State.enterMeasure
  exact (h.enter .measure).same (((SamePool.refl _).updTimers _).startJob _)

/-- EXERCISE: the request of a port that is outside the Pool. -/
theorem KeepsPool.enterExercise (h : KeepsPool s t) : KeepsPool s (t.enterExercise p) := by
  refine h.trans ?_
  obtain ⟨h1, h2⟩ := enter_keeps (s := t) (p := p) .exercise
  have hs := (entered_enter (s := t) (p := p) .exercise).state
  unfold State.enterExercise
  dsimp only
  generalize t.enter p .exercise = v at h1 h2 hs ⊢
  refine ⟨fun k => ?_, fun k => h1.selector k⟩
  have i := h1.pool k
  have o := h2 k
  have hr : ∀ q, q ∈ v.pool.requests ++ [p] → q ∈ v.pool.requests ∨ q = p := fun q m => by simpa using m
  exact ⟨i.owned, i.held,
    fun q m => ⟨(i.waits q m).1, fun c => (hr q c).elim (i.waits q m).2 fun e => o.queue (e ▸ m)⟩,
    fun q m => (hr q m).elim (i.asks q) fun e => by rw [e]; exact o.held,
    fun q m => by
      rcases m with m | m | m
      · exact i.exercise q (.inl m)
      · exact i.exercise q (.inr (.inl m))
      · exact (hr q m).elim (fun m => i.exercise q (.inr (.inr m))) fun e => by rw [e]; exact hs,
    i.once, i.idle⟩

theorem KeepsPool.enterHanded (h : KeepsPool s t) : KeepsPool s (t.enterHanded p) := by
  have h1 := ((SamePool.refl (t.enter p .handed)).setReady (p := p)).updCtx (p := p) (fun c => { c with windowCount := 0 })
    (fun _ => rfl) fun _ => rfl
  unfold State.enterHanded
  exact (h.enter .handed).same (h1.updTimers _)

theorem KeepsPool.handoverTest (h : KeepsPool s t) : KeepsPool s (t.handoverTest p) := by
  unfold State.handoverTest
  dsimp only
  split
  · split
    · exact h.enterHanded
    · exact h
  · exact h

theorem KeepsPool.enterQualified (h : KeepsPool s t) : KeepsPool s (t.enterQualified p) := by
  unfold State.enterQualified
  exact ((h.enter .qualified).same (SamePool.refl _).setReady).handoverTest

theorem KeepsPool.enterMiswired (h : KeepsPool s t) (x : MiswiredStage) : KeepsPool s (t.enterMiswired p x) := by
  have h1 := (h.same ((SamePool.refl t).updCtx (p := p) (fun c => { c with miswiredStage := x }) (fun _ => rfl) fun _ => rfl)).enter
    (p := p) .miswired
  unfold State.enterMiswired
  dsimp only
  split
  · exact h1
  · exact h1.enterListen

theorem KeepsPool.enterSeated (h : KeepsPool s t) : KeepsPool s (t.enterSeated p) := by
  unfold State.enterSeated
  exact (h.enter .seated).same (.ofPorts rfl rfl)

theorem KeepsPool.enterRetryWait (h : KeepsPool s t) : KeepsPool s (t.enterRetryWait p) := by
  unfold State.enterRetryWait
  exact (h.enter .retryWait).same ((SamePool.refl _).updTimers _)

/-- Every transition keeps the Pool's owners and queue and the lane selector codes. -/
theorem KeepsPool.goTo (h : KeepsPool s t) (x : Target) : KeepsPool s (t.goTo p x) := by
  unfold State.goTo
  split
  · exact h.enter _
  · cases x with
    | plain st => exact h.enter st
    | seated => exact h.enterSeated
    | listen => exact h.enterListen
    | greet => exact h.enterGreet
    | measure => exact h.enterMeasure
    | exercise => exact h.enterExercise
    | qualified => exact h.enterQualified
    | handed => exact h.enterHanded
    | miswired stage => exact h.enterMiswired stage
    | relaying => exact h.enterRelaying
    | retryWait => exact h.enterRetryWait

end Sys2Proof.Machine
end

