-- ==== Sys2Proof/Laws/Verdicts.lean ====
section
/-! SUPPORT. What a verdict finds and what it records (R46 to R50), said once for wiring, length, leg and re-verdicts. -/

namespace Sys2Proof.Machine

variable {p q : PortId} {s t : State}

/-- The flag that setting `f` sets, and no other. -/
theorem hasFlag_setFlagIf (b : Bool) (f g : Flag) :
    ((s.setFlagIf b p f).ctx p).hasFlag g = ((s.ctx p).hasFlag g || (b && f == g)) := by
  have h : f.mask.getLsbD g.index = (f == g) := by cases f <;> cases g <;> decide
  cases b <;> simp [State.setFlagIf, State.setFlag, Context.hasFlag, BitVec.getLsbD_or, h]

/-- Setting a flag changes the flags of the context alone. -/
theorem ctx_setFlagIf (b : Bool) (f : Flag) :
    (s.setFlagIf b p f).ctx p = { s.ctx p with flags := ((s.setFlagIf b p f).ctx p).flags } := by
  cases b <;> simp [State.setFlagIf, State.setFlag]

@[simp] theorem setFlagIf_plan (b : Bool) (f : Flag) : (s.setFlagIf b p f).plan = s.plan := by
  cases b <;> simp [State.setFlagIf, State.setFlag]

/-- The peer's epoch differs from the plan's (R50). -/
def State.epochDiffers (s : State) (p : PortId) : Bool :=
  match (s.ctx p).peer with | some i => i.epoch != s.plan.epoch | none => false

theorem flagEpoch_eq : s.flagEpoch p = s.setFlagIf (s.epochDiffers p) p .epochDiffers := by
  unfold State.flagEpoch State.epochDiffers
  cases (s.ctx p).peer <;> rfl

theorem absDiff_gt_iff (a b k : Nat) : absDiff a b > k ↔ a > b + k ∨ b > a + k := by
  unfold absDiff
  omega

/-- No check failed exactly when the verdict is MATCH. -/
theorem VerdictMask.verdict_matched_iff (m : VerdictMask) : m.verdict = .matched ↔ m.failed = false := by
  unfold VerdictMask.verdict VerdictMask.failed
  cases m.unplanned <;> cases m.wrongPeer <;> cases m.mediaMismatch <;> cases m.lengthMismatch <;> decide

theorem cableFails_iff (e : Entry) (c : Context) : cableFails e c.cable = true ↔ CableFails e c := by
  unfold cableFails CableFails
  cases c.cable <;> simp
  cases e.media <;> simp

theorem lengthFails_iff (e : Entry) (length : Option Nat) :
    lengthFails e length = true ↔ ∃ n, length = some n ∧ OffNominal e n := by
  unfold lengthFails OffNominal
  cases length <;> simp
  rw [← absDiff_gt_iff]

/-- The checks of a wiring verdict, a length verdict and a re-verdict find what R46 and R47 say. -/
theorem portChecks_checked (e : Entry) (c : Context) (length : Option Nat) :
    Checked e c length (portChecks e c.cable c.peer length) := by
  by_cases h : e.effective = .unplanned
  · constructor <;> simp [portChecks, h]
  · constructor
    · simp [portChecks, h]
    · simp only [portChecks, h, if_false, wrongPeerFails]
      cases c.peer <;> simp [or_assoc, h]
    · simp only [portChecks, h, if_false, Bool.or_eq_true, cableFails_iff, peerLanesFail]
      cases c.peer <;> simp [h]
    · simp [portChecks, h, lengthFails_iff]

/-- The checks of a leg verdict find what R48 says. -/
theorem legChecks_checked (e : Entry) (c : Context) : LegChecked e c (legChecks e c.cable c.length) :=
  ⟨rfl, rfl, cableFails_iff e c, lengthFails_iff e c.length⟩

theorem legChecks_unplanned (e : Entry) (k : CableIdentity) (n : Option Nat) : (legChecks e k n).unplanned = false := rfl

theorem portChecks_unplanned (e : Entry) (k : CableIdentity) (i : Option PeerIdentity) (n : Option Nat) :
    (portChecks e k i n).unplanned = decide (e.effective = .unplanned) := by
  unfold portChecks
  split <;> simp [*]

theorem recordVerdict_ctx (m : VerdictMask) :
    (s.recordVerdict p m).ctx p = { s.ctx p with lastVerdict := m.verdict, verdictMask := m } := by
  show (s.updCtx p _).ctx p = _
  simp

theorem recordVerdict_dirty (m : VerdictMask) : maskHas (s.recordVerdict p m).page.dirty p = true :=
  maskHas_or_portBit _ _

/-- What a verdict that is no leg verdict leaves of the context: the verdict, the mask, and flags on top of those set before. -/
theorem judge_ctx (n : Option Nat) :
    ∃ flags, ((s.judge p n).1).ctx p =
        { s.ctx p with flags := flags, lastVerdict := (s.judge p n).2.verdict, verdictMask := (s.judge p n).2 } ∧
      ∀ g, ({ s.ctx p with flags := flags } : Context).hasFlag g = ((s.ctx p).hasFlag g ||
        ((!(s.judge p n).2.unplanned && !(s.ctx p).cable.isValid) && Flag.mediaUnverified == g) ||
        (s.epochDiffers p && Flag.epochDiffers == g)) := by
  have h0 : (s.judge p n).2.unplanned = decide ((s.entry p).effective = .unplanned) := portChecks_unplanned _ _ _ _
  have h1 : (s.judge p n).1 =
      ((s.setFlagIf (!(s.judge p n).2.unplanned && !(s.ctx p).cable.isValid) p .mediaUnverified).setFlagIf
        (s.epochDiffers p) p .epochDiffers).recordVerdict p (s.judge p n).2 := by
    have h2 (u : State) (hu : u = s.setFlagIf (!(s.judge p n).2.unplanned && !(s.ctx p).cable.isValid) p .mediaUnverified) :
        u.flagEpoch p = u.setFlagIf (s.epochDiffers p) p .epochDiffers := by
      rw [flagEpoch_eq]
      subst hu
      unfold State.epochDiffers
      rw [ctx_setFlagIf, setFlagIf_plan]
    rw [← h2 _ rfl, h0]
    unfold State.judge
    by_cases h : (s.entry p).effective = .unplanned <;> simp [h, State.flagUnverified, State.setFlagIf]
  rw [h1, recordVerdict_ctx]
  refine ⟨_, by rw [ctx_setFlagIf, ctx_setFlagIf], fun g => ?_⟩
  exact (hasFlag_setFlagIf _ _ _).trans (by rw [hasFlag_setFlagIf])

/-- A wiring verdict, a length verdict or a re-verdict: what it finds and what it records. -/
theorem judge_taken (n : Option Nat) :
    Checked (s.entry p) (s.ctx p) n (s.judge p n).2 ∧
      VerdictTaken p (s.ctx p) (s.judge p n).2 false s (s.judge p n).1 := by
  obtain ⟨flags, hc, hf⟩ := judge_ctx (s := s) (p := p) n
  refine ⟨portChecks_checked _ _ _, ?_, ?_, ?_, ?_, recordVerdict_dirty _⟩ <;> rw [hc]
  · rfl
  · exact (hf .mediaUnverified).trans (by simp [show (Flag.epochDiffers == Flag.mediaUnverified) = false from rfl])
  · exact (hf .epochDiffers).trans (by
      simp only [State.epochDiffers, show (Flag.mediaUnverified == Flag.epochDiffers) = false from rfl]
      cases (s.ctx p).peer <;> simp)

/-- A leg verdict: what it finds and what it records. -/
theorem judgeLeg_taken :
    LegChecked (s.entry p) (s.ctx p) (s.judgeLeg p).2 ∧
      VerdictTaken p (s.ctx p) (s.judgeLeg p).2 true s (s.judgeLeg p).1 := by
  have hc : ((s.judgeLeg p).1).ctx p = { s.ctx p with
      flags := ((s.flagUnverified p).ctx p).flags
      lastVerdict := (s.judgeLeg p).2.verdict, verdictMask := (s.judgeLeg p).2 } := by
    show ((s.flagUnverified p).recordVerdict p _).ctx p = _
    rw [recordVerdict_ctx]
    unfold State.flagUnverified
    rw [ctx_setFlagIf]
    rfl
  have hf (g : Flag) : ({ s.ctx p with flags := ((s.flagUnverified p).ctx p).flags } : Context).hasFlag g =
      ((s.ctx p).hasFlag g || (!(s.ctx p).cable.isValid && Flag.mediaUnverified == g)) := hasFlag_setFlagIf _ _ _
  refine ⟨legChecks_checked _ _, ?_, ?_, ?_, ?_, recordVerdict_dirty _⟩ <;> rw [hc]
  · rfl
  · exact (hf .mediaUnverified).trans (by simp [legChecks_unplanned, State.judgeLeg])
  · exact (hf .epochDiffers).trans (by simp [show (Flag.mediaUnverified == Flag.epochDiffers) = false from rfl])

/-- A verdict moves no port and leaves the plan as it is. -/
theorem judge_port (n : Option Nat) :
    (s.judge p n).1.portState p = s.portState p ∧ (s.judge p n).1.entry p = s.entry p := by
  obtain ⟨_, hc, _⟩ := judge_ctx (s := s) (p := p) n
  exact ⟨by unfold State.portState; rw [hc],
    by unfold State.entry; rw [((PortEvent.refl (p := p)).judge n).1.plan]⟩

/-! ### A verdict outlasts the entries that follow it -/

variable {u : State}

/-- What a verdict writes in a context. -/
def Context.verdictPart (c : Context) : Verdict × VerdictMask × BitVec 15 := (c.lastVerdict, c.verdictMask, c.flags)

/-- Port `p` keeps what its last verdict wrote. -/
def KeepsVerdict (p : PortId) (s t : State) : Prop := (t.ctx p).verdictPart = (s.ctx p).verdictPart

theorem KeepsVerdict.refl : KeepsVerdict p s s := rfl

theorem KeepsVerdict.trans (h : KeepsVerdict p s t) (k : KeepsVerdict p t u) : KeepsVerdict p s u := Eq.trans k h

theorem KeepsVerdict.updPort (h : KeepsVerdict p s t) (f : Port → Port)
    (hf : ∀ x, (f x).ctx.verdictPart = x.ctx.verdictPart) : KeepsVerdict p s (t.updPort p f) :=
  h.trans (by unfold KeepsVerdict State.ctx; rw [port_updPort_same, hf])

theorem KeepsVerdict.updCtx (h : KeepsVerdict p s t) (f : Context → Context) (hf : ∀ c, (f c).verdictPart = c.verdictPart) :
    KeepsVerdict p s (t.updCtx p f) := h.trans (by unfold KeepsVerdict; rw [ctx_updCtx_same, hf])

theorem KeepsVerdict.ofOwn (h : KeepsVerdict p s t) (k : (u.port p).own = (t.port p).own) : KeepsVerdict p s u :=
  h.trans (by
    unfold KeepsVerdict
    show (u.ctx p).own.verdictPart = (t.ctx p).own.verdictPart
    rw [own_ctx k])

theorem KeepsVerdict.enter (h : KeepsVerdict p s t) (st : PortState) : KeepsVerdict p s (t.enter p st) :=
  h.trans (by
    unfold KeepsVerdict
    show ((t.enter p st).ctx p).own.verdictPart = ((t.ctx p).entered st t.ms).own.verdictPart
    rw [ctx_enter])

theorem own_startJob (k : JobKind) : ((s.startJob p k).port q).own = (s.port q).own := by
  unfold State.startJob
  split
  · exact own_updMeter _
  · dsimp only
    split
    · exact (own_endCheckOn _ _).trans (own_updMeter _)
    · exact own_updMeter _

theorem KeepsVerdict.updTimers (h : KeepsVerdict p s t) (f : Timers → Timers) : KeepsVerdict p s (t.updTimers p f) :=
  h.updPort _ fun _ => rfl

theorem KeepsVerdict.startJob (h : KeepsVerdict p s t) (k : JobKind) : KeepsVerdict p s (t.startJob p k) :=
  h.ofOwn (own_startJob k)

theorem KeepsVerdict.meterClear (h : KeepsVerdict p s t) : KeepsVerdict p s (t.meterClear p) := h.ofOwn own_meterClear

theorem KeepsVerdict.queueMessage (h : KeepsVerdict p s t) (m : Message) : KeepsVerdict p s (t.queueMessage p m) :=
  h.updPort _ fun _ => rfl

theorem KeepsVerdict.setReady (h : KeepsVerdict p s t) : KeepsVerdict p s (t.setReady p) := h.updPort _ fun _ => rfl

theorem KeepsVerdict.turnOn (h : KeepsVerdict p s t) : KeepsVerdict p s (t.turnOn p) := h.updPort _ fun _ => rfl

theorem KeepsVerdict.enterGreet (h : KeepsVerdict p s t) : KeepsVerdict p s (t.enterGreet p) := by
  have h1 := (h.enter .greet).updPort (fun x => { x with
    helloDelivered := false, helloHeard := false, timers := { x.timers with greet := some 0 } }) fun _ => rfl
  unfold State.enterGreet
  exact h1.queueMessage _

theorem KeepsVerdict.enterRelaying (h : KeepsVerdict p s t) : KeepsVerdict p s (t.enterRelaying p) := by
  unfold State.enterRelaying
  exact (h.enter .relaying).startJob _

theorem KeepsVerdict.lockInListen (h : KeepsVerdict p s t) : KeepsVerdict p s (t.lockInListen p) := by
  unfold State.lockInListen
  split
  · exact h.enterRelaying
  · exact h.enterGreet

theorem KeepsVerdict.enterListen (h : KeepsVerdict p s t) : KeepsVerdict p s (t.enterListen p) := by
  have h1 := ((h.enter .listen).updCtx Context.listening fun _ => rfl).meterClear.updTimers
    fun t => { t with lockSearch := some 0 }
  unfold State.enterListen
  dsimp only
  split <;> split
  · exact h1.lockInListen
  · exact h1
  · exact h1.turnOn.lockInListen
  · exact h1.turnOn

theorem KeepsVerdict.enterHanded (h : KeepsVerdict p s t) : KeepsVerdict p s (t.enterHanded p) := by
  have h1 := (h.enter .handed).setReady.updCtx (fun c => { c with windowCount := 0 }) fun _ => rfl
  unfold State.enterHanded
  exact h1.updTimers _

theorem KeepsVerdict.handoverTest (h : KeepsVerdict p s t) : KeepsVerdict p s (t.handoverTest p) := by
  unfold State.handoverTest
  dsimp only
  split
  · split
    · exact h.enterHanded
    · exact h
  · exact h

theorem KeepsVerdict.enterQualified (h : KeepsVerdict p s t) : KeepsVerdict p s (t.enterQualified p) := by
  unfold State.enterQualified
  exact (h.enter .qualified).setReady.handoverTest

theorem KeepsVerdict.enterMiswired (h : KeepsVerdict p s t) (x : MiswiredStage) : KeepsVerdict p s (t.enterMiswired p x) := by
  have h1 := (h.updCtx (fun c => { c with miswiredStage := x }) fun _ => rfl).enter .miswired
  unfold State.enterMiswired
  dsimp only
  split
  · exact h1
  · exact h1.enterListen

theorem KeepsVerdict.enterMeasure (h : KeepsVerdict p s t) : KeepsVerdict p s (t.enterMeasure p) := by
  unfold State.enterMeasure
  exact ((h.enter .measure).updTimers _).startJob _

theorem KeepsVerdict.enterExercise (h : KeepsVerdict p s t) : KeepsVerdict p s (t.enterExercise p) := by
  unfold State.enterExercise
  exact (h.enter .exercise).trans rfl

theorem KeepsVerdict.enterSeated (h : KeepsVerdict p s t) : KeepsVerdict p s (t.enterSeated p) := by
  unfold State.enterSeated
  exact (h.enter .seated).trans rfl

theorem KeepsVerdict.enterRetryWait (h : KeepsVerdict p s t) : KeepsVerdict p s (t.enterRetryWait p) := by
  unfold State.enterRetryWait
  exact (h.enter .retryWait).updTimers _

/-- No transition writes over a verdict. -/
theorem KeepsVerdict.goTo (h : KeepsVerdict p s t) (x : Target) : KeepsVerdict p s (t.goTo p x) := by
  unfold State.goTo
  split
  · exact h.enter _
  · cases x with
    | plain st => exact h.enter st
    | seated => exact h.enterSeated
    | listen => exact h.enterListen
    | greet => exact h.enterGreet
    | measure => exact h.enterMeasure
    | exercise => exact h.enterExercise
    | qualified => exact h.enterQualified
    | handed => exact h.enterHanded
    | miswired stage => exact h.enterMiswired stage
    | relaying => exact h.enterRelaying
    | retryWait => exact h.enterRetryWait

/-- A verdict taken stands through later events of the port that write none. -/
theorem VerdictTaken.keeps {c : Context} {m : VerdictMask} {leg : Bool} (h : VerdictTaken p c m leg s t)
    (k : SameHost t u) (v : KeepsVerdict p t u) : VerdictTaken p c m leg s u := by
  have hv : (u.ctx p).lastVerdict = (t.ctx p).lastVerdict := congrArg (·.1) v
  have hm : (u.ctx p).verdictMask = (t.ctx p).verdictMask := congrArg (·.2.1) v
  have hf : (u.ctx p).flags = (t.ctx p).flags := congrArg (·.2.2) v
  refine ⟨hv.trans h.verdict, hm.trans h.mask, ?_, ?_, k.dirty_of h.dirty⟩
  · rw [← h.unverified]; unfold Context.hasFlag; rw [hf]
  · rw [← h.epoch]; unfold Context.hasFlag; rw [hf]

/-- A transition after a verdict: the verdict stands. -/
theorem VerdictTaken.thenGoTo {c : Context} {m : VerdictMask} {leg : Bool} (h : VerdictTaken p c m leg s t) (x : Target) :
    VerdictTaken p c m leg s (t.goTo p x) :=
  h.keeps (PortEvent.refl.goTo x).1 (KeepsVerdict.refl.goTo x)

/-! ### What each verdict leads to -/

theorem judge_event (n : Option Nat) : PortEvent p s (s.judge p n).1 := PortEvent.refl.judge n

theorem startJob_locked (k : JobKind) (h : (s.port p).framer.lock = .locked) :
    s.startJob p k = s.updMeter p fun m => m.startJob k := by
  unfold State.startJob
  rw [if_pos h]

/-- A port that goes on in a state that transmits keeps its framer. -/
theorem framer_enter (st : PortState) (h : st.transmits = true) :
    ((s.enter p st).port p).framer = (s.port p).framer := by
  rw [own_framer (own_enter (s := s) (p := p) st)]
  unfold Port.afterEntry Port.entered Port.handoverOff
  rw [h]
  dsimp only
  split <;> simp

/-- MEASURE (R14): entered, the peer delay wait started, and with lock the MEASURE job started. -/
theorem enterMeasure_port (h : (s.port p).framer.lock = .locked) :
    (s.enterMeasure p).portState p = .measure ∧ ((s.enterMeasure p).port p).timers.peerDelay = some 0 ∧
      ((s.enterMeasure p).port p).meter.measureJob.isSome = true := by
  have hl : (((s.enter p .measure).updTimers p fun t => { t with peerDelay := some 0 }).port p).framer.lock = .locked := by
    unfold State.updTimers
    rw [port_updPort_same]
    show ((s.enter p .measure).port p).framer.lock = .locked
    rw [framer_enter _ rfl, h]
  have hs := (entered_enter (s := s) (p := p) .measure).state
  unfold State.enterMeasure
  rw [startJob_locked _ hl]
  unfold State.updMeter State.updTimers State.portState State.ctx at *
  simp only [port_updPort_same]
  exact ⟨hs, trivial, by simp [Meter.startJob, Meter.setJob]⟩

/-- With lock a failed verdict leaves the port in MISWIRED at the stage (R24). -/
theorem enterMiswired_locked (x : MiswiredStage) (h : (s.port p).framer.lock = .locked) :
    (s.enterMiswired p x).portState p = .miswired ∧ ((s.enterMiswired p x).ctx p).miswiredStage = x := by
  unfold State.enterMiswired
  dsimp only
  generalize hu : (s.updCtx p fun c => { c with miswiredStage := x }) = v
  have hv : v.port p = { s.port p with ctx := { s.ctx p with miswiredStage := x } } := by rw [← hu, port_updCtx_same]
  have hl : ((v.enter p .miswired).port p).framer.lock = .locked := by rw [framer_enter _ rfl, hv]; exact h
  rw [if_pos hl]
  refine ⟨(entered_enter _).state, ?_⟩
  show ((v.enter p .miswired).ctx p).own.miswiredStage = x
  rw [ctx_enter]
  unfold State.ctx
  rw [hv]
  rfl

/-- A verdict changes nothing of its port but the context. -/
theorem judge_framer (n : Option Nat) : ((s.judge p n).1.port p).framer = (s.port p).framer := by
  have hf : ∀ (u : State) (b : Bool) (f : Flag), ((u.setFlagIf b p f).port p).framer = (u.port p).framer := by
    intro u b f
    cases b <;> simp [State.setFlagIf, State.setFlag, port_updCtx_same]
  unfold State.judge State.recordVerdict
  simp only [markDirty_port, port_updCtx_same, flagEpoch_eq, hf]
  split
  · rfl
  · unfold State.flagUnverified; rw [hf]

/-- The wiring verdict of R13, with what it records and where it leads. -/
theorem wiringVerdict_taken (hs : s.portState p = .greet) (hl : (s.port p).framer.lock = .locked) :
    WiringVerdict p (s.ctx p) s (s.wiringVerdict p) := by
  obtain ⟨hc, hv⟩ := judge_taken (s := s) (p := p) none
  obtain ⟨hst, _⟩ := judge_port (s := s) (p := p) none
  have hf := judge_framer (s := s) (p := p) none
  unfold State.wiringVerdict
  generalize hj : s.judge p none = j at hc hv hst hf ⊢
  obtain ⟨u, m⟩ := j
  dsimp only at hc hv hst hf ⊢
  have hl' : (u.port p).framer.lock = .locked := by rw [hf]; exact hl
  have hg : (!u.run && u.portState p == .handed) = false := by rw [hst, hs]; simp
  refine ⟨m, hc, ?_, ?_, ?_⟩
  · split <;> exact hv.thenGoTo _
  · intro hm
    have : ¬ m.verdict = .matched := fun e => by rw [(m.verdict_matched_iff.mp e)] at hm; cases hm
    rw [if_neg this, goTo_of_running _ hg _ rfl]
    exact enterMiswired_locked _ hl'
  · intro hm
    rw [if_pos (m.verdict_matched_iff.mpr hm), goTo_of_running _ hg _ rfl]
    exact enterMeasure_port hl'

/-! ### The re-verdict -/

theorem enterMeasure_state : (s.enterMeasure p).portState p = .measure := by
  unfold State.enterMeasure
  rw [own_state (own_startJob _)]
  unfold State.updTimers State.portState State.ctx
  rw [port_updPort_same]
  exact (entered_enter (s := s) .measure).state

theorem enterRelaying_state : (s.enterRelaying p).portState p = .relaying := by
  unfold State.enterRelaying
  rw [own_state (own_startJob _)]
  exact (entered_enter .relaying).state

theorem enterExercise_state : (s.enterExercise p).portState p = .exercise := (entered_enter (s := s) .exercise).state

theorem framer_meterClear : ((s.meterClear p).port p).framer = (s.port p).framer := own_framer own_meterClear

/-- Without lock a port that enters LISTEN stays there (R11). -/
theorem enterListen_unlocked (h : (s.port p).framer.lock ≠ .locked) : (s.enterListen p).portState p = .listen := by
  unfold State.enterListen
  dsimp only
  generalize hv : (((s.enter p .listen).updCtx p Context.listening).meterClear p) = v
  have hst : v.portState p = .listen := by
    rw [← hv, own_state own_meterClear]
    unfold State.portState
    rw [ctx_updCtx_same]
    exact (entered_enter (s := s) .listen).state
  have hf : (v.port p).framer = (s.port p).framer := by
    rw [← hv, framer_meterClear, port_updCtx_same]
    exact framer_enter .listen rfl
  have ht : ((v.updTimers p fun t => { t with lockSearch := some 0 }).port p).framer = (v.port p).framer := by
    unfold State.updTimers; rw [port_updPort_same]
  have hs : (v.updTimers p fun t => { t with lockSearch := some 0 }).portState p = v.portState p := by
    unfold State.updTimers State.portState State.ctx; rw [port_updPort_same]
  generalize v.updTimers p (fun t => { t with lockSearch := some 0 }) = w at ht hs ⊢
  rw [hst] at hs
  rw [hf] at ht
  rw [ht]
  split
  · rw [if_neg (by rw [ht]; exact h)]; exact hs
  · have hon : ((w.turnOn p).port p).framer.lock ≠ .locked := by
      unfold State.turnOn
      rw [port_updPort_same]
      simp [Framer.turnedOn, Framer.lockDropped]
    rw [if_neg hon]
    unfold State.turnOn State.portState State.ctx
    rw [port_updPort_same]
    exact hs

/-- A failed verdict takes a port outside HANDED with RUN 0 to MISWIRED, or without lock on to LISTEN (R24). -/
theorem enterMiswired_state (x : MiswiredStage) :
    (s.enterMiswired p x).portState p = if (s.port p).framer.lock = .locked then .miswired else .listen := by
  split
  · next h => exact (enterMiswired_locked x h).1
  · next h =>
    unfold State.enterMiswired
    dsimp only
    have hl : (((s.updCtx p fun c => { c with miswiredStage := x }).enter p .miswired).port p).framer.lock ≠ .locked := by
      rw [framer_enter _ rfl, port_updCtx_same]; exact h
    rw [if_neg hl]
    exact enterListen_unlocked hl

theorem judgeLeg_ctx : ∃ flags, ((s.judgeLeg p).1).ctx p =
    { s.ctx p with flags := flags, lastVerdict := (s.judgeLeg p).2.verdict, verdictMask := (s.judgeLeg p).2 } := by
  refine ⟨((s.flagUnverified p).ctx p).flags, ?_⟩
  show ((s.flagUnverified p).recordVerdict p _).ctx p = _
  rw [recordVerdict_ctx]
  unfold State.flagUnverified
  rw [ctx_setFlagIf]
  rfl

theorem judgeLeg_framer : ((s.judgeLeg p).1.port p).framer = (s.port p).framer := by
  unfold State.judgeLeg State.recordVerdict State.flagUnverified
  simp only [markDirty_port, port_updCtx_same]
  cases !(s.ctx p).cable.isValid <;> simp [State.setFlagIf, State.setFlag, port_updCtx_same]

/-- A failed re-verdict or leg verdict, from any state, on the state `u` that the verdict left (R24, R49). -/
theorem failed_leaves (x : MiswiredStage) (leg : Bool) (hst : u.portState p = s.portState p)
    (hf : (u.port p).framer = (s.port p).framer) (hr : u.run = s.run) (hm : s.portState p ≠ .miswired) :
    (u.goTo p (.miswired x)).portState p = s.verdictLeaves p leg true ∧
      ((u.goTo p (.miswired x)).portState p = .miswired → ((u.goTo p (.miswired x)).ctx p).miswiredStage = x) := by
  unfold State.verdictLeaves
  dsimp only
  by_cases h : s.portState p = .handed ∧ s.run = false
  · have hg : u.goTo p (.miswired x) = u.enter p .dormant := by
      unfold State.goTo
      rw [if_pos (by rw [hst, hr]; simp [h])]
    have hd := (entered_enter (s := u) (p := p) .dormant).state
    rw [hg, hd, if_pos rfl, if_pos h]
    exact ⟨rfl, fun e => by cases e⟩
  · have hg : (!u.run && u.portState p == .handed) = false := by
      rw [hr, hst]
      cases h1 : s.run <;> simp [h1] at h ⊢
      exact h
    rw [goTo_of_running (.miswired x) hg _ rfl, if_pos rfl, if_neg h, enterMiswired_state, hf]
    simp only [hm, false_or]
    refine ⟨trivial, fun e => (enterMiswired_locked x ?_).2⟩
    rw [hf]
    by_cases hl : (s.port p).framer.lock = .locked
    · exact hl
    · rw [if_neg hl] at e; cases e

theorem setStage_keeps (x : MiswiredStage) : KeepsVerdict p s (s.setStage p x) := KeepsVerdict.refl.updCtx _ fun _ => rfl

theorem setStage_ctx (x : MiswiredStage) : (s.setStage p x).ctx p = { s.ctx p with miswiredStage := x } := ctx_updCtx_same _ _ _

theorem VerdictTaken.thenStage {c : Context} {m : VerdictMask} {leg : Bool} (h : VerdictTaken p c m leg s t)
    (x : MiswiredStage) : VerdictTaken p c m leg s (t.setStage p x) :=
  h.keeps (PortEvent.refl.setStage x).1 (setStage_keeps x)

theorem verdictLeaves_pass (leg : Bool) (h : s.portState p ≠ .miswired) : s.verdictLeaves p leg false = s.portState p := by
  unfold State.verdictLeaves
  simp [h]

theorem verdictLeaves_miswired (leg : Bool) (h : s.portState p = .miswired) : s.verdictLeaves p leg true = .miswired := by
  unfold State.verdictLeaves
  simp [h]

theorem verdict_ne_of_failed {m : VerdictMask} (h : m.failed = true) : ¬ m.verdict = .matched := fun e => by
  rw [m.verdict_matched_iff.mp e] at h
  cases h

/-! ### The channel and the relay drop count through an entry -/

/-- The part of a port that a relay leg's messages concern. -/
def Port.relayPart (x : Port) : Channel × Nat := (x.channel, x.ctx.relayDrops)

theorem relayPart_channel {x y : Port} (h : x.relayPart = y.relayPart) : x.channel = y.channel := congrArg Prod.fst h

theorem relayPart_drops {x y : Port} (h : x.relayPart = y.relayPart) : x.ctx.relayDrops = y.ctx.relayDrops := congrArg Prod.snd h

theorem relayPart_of_any (h : ∀ r, PortEvent r s t) (q : PortId) : (t.port q).relayPart = (s.port q).relayPart := by
  have h1 := (h (otherPort q)).2 q (ne_otherPort q)
  have h2 : (t.port q).relayPart = (t.port q).withoutGrant.relayPart := rfl
  rw [h2, h1]
  rfl

theorem relayPart_updPort (f : Port → Port) (hf : ∀ x, (f x).relayPart = x.relayPart) :
    ((s.updPort p f).port p).relayPart = (s.port p).relayPart := by rw [port_updPort_same, hf]

theorem relayPart_updCtx (f : Context → Context) (hf : ∀ c, (f c).relayDrops = c.relayDrops) :
    ((s.updCtx p f).port p).relayPart = (s.port p).relayPart := by
  rw [port_updCtx_same]
  exact Prod.ext rfl (hf _)

theorem relayPart_updMeter (f : Meter → Meter) : ((s.updMeter p f).port p).relayPart = (s.port p).relayPart :=
  relayPart_updPort _ fun _ => rfl

theorem relayPart_setFlagIf (b : Bool) (f : Flag) : ((s.setFlagIf b p f).port p).relayPart = (s.port p).relayPart := by
  unfold State.setFlagIf State.setFlag
  split
  · exact relayPart_updCtx _ fun _ => rfl
  · rfl

theorem judgeLeg_relayPart : (((s.judgeLeg p).1).port p).relayPart = (s.port p).relayPart := by
  unfold State.judgeLeg State.recordVerdict State.flagUnverified
  dsimp only
  rw [markDirty_port]
  refine Eq.trans (relayPart_updCtx _ ?_) (relayPart_setFlagIf _ _)
  exact fun _ => rfl

theorem relayPart_endCheck (r : ScanResult) : ((s.endCheck r).port p).relayPart = (s.port p).relayPart := by
  unfold State.endCheck
  split
  · rfl
  · next c _ =>
    have h1 : ∀ r', PortEvent r' (s.recordCheck c r)
        ({ (s.recordCheck c r) with scan := { (s.recordCheck c r).scan with inFlight := none } }.advancePointer.scanDrainTest) :=
      fun _ => (PortEvent.refl.scan _).advancePointer.scanDrainTest
    refine (relayPart_of_any h1 p).trans ?_
    rw [State.recordCheck, markDirty_port]
    by_cases h : p = c.port
    · subst h; exact relayPart_updCtx _ fun _ => rfl
    · rw [port_updCtx_ne _ _ _ _ h]

theorem relayPart_checkOnEntry (st : PortState) : ((s.checkOnEntry p st).port p).relayPart = (s.port p).relayPart := by
  unfold State.checkOnEntry
  split
  · rfl
  · split
    · rfl
    · split
      · split
        · exact relayPart_endCheck _
        · split
          · rfl
          · exact relayPart_endCheck _
      · split
        · rfl
        · exact relayPart_endCheck _
      · split
        · rfl
        · exact (relayPart_endCheck _).trans (relayPart_updMeter _)
      · exact relayPart_endCheck _

/-- A port that goes on transmitting keeps its messages through the steps before an entry and the entry proper. -/
theorem relayPart_recordLeave {st : PortState} (h : st.transmits = true) :
    (((s.leave p st).recordEntry p st).port p).relayPart = (s.port p).relayPart := by
  unfold State.recordEntry
  rw [setSummary_port, markDirty_port]
  refine Eq.trans (relayPart_updPort _ ?_) ?_
  · exact fun _ => rfl
  unfold State.leave
  dsimp only
  rw [h]
  simp only [Bool.not_true, Bool.and_false, Bool.false_eq_true, if_false]
  refine Eq.trans (relayPart_updPort _ ?_) ?_
  · exact fun _ => rfl
  refine (relayPart_of_any (fun _ => (PortEvent.refl.giveBack p).leaveIdentity p) p).trans ?_
  split
  · exact relayPart_updPort _ fun _ => rfl
  · rfl

/-- A leg that enters MISWIRED from RELAYING (R105). -/
theorem enter_miswired_messages (h : s.portState p = .relaying) :
    ((s.enter p .miswired).port p).relayPart =
      ({ (s.port p).channel with queue := (s.port p).channel.queue.filter fun m => !m.isForwarded },
        Nat.min 65535 ((s.ctx p).relayDrops + ((s.port p).channel.queue.filter Message.isForwarded).length)) := by
  have h1 : (((((s.leave p .miswired).recordEntry p .miswired).checkOnEntry p .miswired).updMeter p
      fun m => m.endJobsOutside .miswired).port p).relayPart = (s.port p).relayPart :=
    (relayPart_updMeter _).trans ((relayPart_checkOnEntry _).trans (relayPart_recordLeave rfl))
  unfold State.enter
  dsimp only
  rw [if_pos ⟨h, rfl⟩]
  generalize ((((s.leave p .miswired).recordEntry p .miswired).checkOnEntry p .miswired).updMeter p
      fun m => m.endJobsOutside .miswired) = u at h1 ⊢
  unfold State.dropForwarded
  dsimp only
  rw [port_updCtx_same]
  unfold Port.relayPart
  simp only [State.ctx, port_updPort_same]
  rw [relayPart_channel h1, relayPart_drops h1]

/-- A leg that goes to MISWIRED on a verdict is in MISWIRED with its messages as R105 leaves them, or, without lock, in LISTEN (R24). -/
theorem enterMiswired_messages (x : MiswiredStage) (h : s.portState p = .relaying) :
    ((s.enterMiswired p x).portState p = .miswired →
      ((s.enterMiswired p x).port p).channel =
          { (s.port p).channel with queue := (s.port p).channel.queue.filter fun m => !m.isForwarded } ∧
        ((s.enterMiswired p x).ctx p).relayDrops =
          Nat.min 65535 ((s.ctx p).relayDrops + ((s.port p).channel.queue.filter Message.isForwarded).length)) ∧
    (s.enterMiswired p x).portState p ≠ .relaying := by
  have hs := enterMiswired_state (s := s) (p := p) x
  refine ⟨fun e => ?_, fun e => ?_⟩
  · have hl : (s.port p).framer.lock = .locked := by
      rw [hs] at e
      by_cases hl : (s.port p).framer.lock = .locked
      · exact hl
      · rw [if_neg hl] at e; cases e
    have hu : (s.updCtx p fun c => { c with miswiredStage := x }).portState p = .relaying :=
      (updCtx_portState_of_keeps _ _ _ rfl).trans h
    have hr : ((s.updCtx p fun c => { c with miswiredStage := x }).port p).relayPart = (s.port p).relayPart :=
      relayPart_updCtx _ fun _ => rfl
    have hm := enter_miswired_messages hu
    unfold State.enterMiswired at e ⊢
    dsimp only at e ⊢
    split
    · unfold State.ctx
      rw [relayPart_channel hr] at hm
      refine ⟨(congrArg Prod.fst hm), ?_⟩
      refine (congrArg Prod.snd hm).trans ?_
      unfold State.ctx
      rw [relayPart_drops hr]
    · next hn =>
      refine absurd ?_ hn
      rw [framer_enter _ rfl, port_updCtx_same]
      exact hl
  · rw [hs] at e
    split at e <;> cases e

/-- What the leg verdict records and where it leads (R25, R49). -/
theorem legVerdict_taken (hs : s.portState p = .relaying ∨ s.portState p = .miswired) :
    ∃ m, LegChecked (s.entry p) (s.ctx p) m ∧ VerdictTaken p (s.ctx p) m true s (s.legVerdict p) ∧
      (s.legVerdict p).portState p = s.verdictLeaves p true m.failed ∧
      (m.failed = true → (s.legVerdict p).portState p = .miswired → ((s.legVerdict p).ctx p).miswiredStage = .measure) := by
  obtain ⟨hc, hv⟩ := judgeLeg_taken (s := s) (p := p)
  obtain ⟨_, hctx⟩ := judgeLeg_ctx (s := s) (p := p)
  have hf := judgeLeg_framer (s := s) (p := p)
  have he := (PortEvent.refl (p := p) (s := s)).judgeLeg
  unfold State.legVerdict
  generalize hj : s.judgeLeg p = j at hc hv hctx hf he ⊢
  obtain ⟨u, m⟩ := j
  dsimp only at hc hv hctx hf he ⊢
  have hst : u.portState p = s.portState p := by unfold State.portState; rw [hctx]
  refine ⟨m, hc, ?_⟩
  cases hm : m.failed
  · rw [if_pos (m.verdict_matched_iff.mpr hm), if_pos (m.verdict_matched_iff.mpr hm), hst]
    rcases hs with h | h <;> rw [h]
    · refine ⟨by simpa using hv, ?_, by simp⟩
      rw [verdictLeaves_pass _ (by rw [h]; simp), h]
      simpa [h] using hst
    · have hg : (!u.run && u.portState p == .handed) = false := by rw [hst, h]; simp
      simp only [if_true]
      refine ⟨hv.thenGoTo _, ?_, by simp⟩
      rw [goTo_of_running .relaying hg _ rfl, enterRelaying_state]
      unfold State.verdictLeaves
      simp [h]
  · rw [if_neg (verdict_ne_of_failed hm), if_neg (verdict_ne_of_failed hm), hst]
    rcases hs with h | h <;> rw [h]
    · have hl := failed_leaves (s := s) (p := p) .measure true hst hf he.1.run (by rw [h]; simp)
      simp only [reduceCtorEq, if_false]
      exact ⟨hv.thenGoTo _, hl.1, fun _ => hl.2⟩
    · simp only [if_true]
      refine ⟨hv.thenStage _, ?_, fun _ _ => by rw [setStage_ctx]⟩
      rw [verdictLeaves_miswired _ h]
      unfold State.portState at *
      rw [setStage_ctx]
      exact hst.trans h

/-- What a re-verdict records and where it leads, in every state (R25, R49). -/
theorem reVerdict_judges : JudgedAgain p (s.ctx p) s (s.reVerdict p) := by
  unfold JudgedAgain
  by_cases hleg : s.portState p = .relaying ∨ (s.portState p = .miswired ∧ s.isRelay p = true)
  · have hb : (s.portState p == .relaying || s.portState p == .miswired && (s.entry p).effective == .relay) = true := by
      rcases hleg with h | ⟨h, h2⟩
      · simp [h]
      · simp only [h, beq_self_eq_true, Bool.true_and]
        have : ((s.entry p).effective == .relay) = true := h2
        simp [this]
    obtain ⟨m, h1, h2, h3, h4⟩ := legVerdict_taken (s := s) (p := p) (hleg.imp id And.left)
    have hr : s.reVerdict p = s.legVerdict p := by unfold State.reVerdict; rw [if_pos hleg]
    dsimp only
    rw [hb, hr]
    exact ⟨m, by simpa using h1, h2, h3, fun a b => by simpa using h4 a b⟩
  · have hb : (s.portState p == .relaying || s.portState p == .miswired && (s.entry p).effective == .relay) = false := by
      rw [Bool.eq_false_iff]
      intro h
      apply hleg
      rw [Bool.or_eq_true, Bool.and_eq_true] at h
      exact h.imp (by simp) (fun ⟨a, b⟩ => ⟨by simpa using a, b⟩)
    dsimp only
    rw [hb]
    obtain ⟨hc, hv⟩ := judge_taken (s := s) (p := p) (s.ctx p).length
    obtain ⟨_, hctx, _⟩ := judge_ctx (s := s) (p := p) (s.ctx p).length
    have hf := judge_framer (s := s) (p := p) (s.ctx p).length
    have he := judge_event (s := s) (p := p) (s.ctx p).length
    unfold State.reVerdict
    rw [if_neg hleg]
    generalize hj : s.judge p (s.ctx p).length = j at hc hv hctx hf he ⊢
    obtain ⟨u, m⟩ := j
    dsimp only at hc hv hctx hf he ⊢
    have hst : u.portState p = s.portState p := by unfold State.portState; rw [hctx]
    refine ⟨m, by simpa using hc, ?_⟩
    cases hm : m.failed
    · rw [if_pos (m.verdict_matched_iff.mpr hm), hst]
      split
      · next h =>
        have hg : (!u.run && u.portState p == .handed) = false := by rw [hst, h]; simp
        have hstage : (u.ctx p).miswiredStage = (s.ctx p).miswiredStage := by rw [hctx]
        have hl : s.verdictLeaves p false false = match (s.ctx p).miswiredStage with
            | .greet => .measure
            | .measure => .exercise
            | .none => .miswired := by
          unfold State.verdictLeaves
          cases hz : (s.ctx p).miswiredStage <;> simp [h]
        rw [hl]
        unfold State.resume
        rw [hstage]
        cases (s.ctx p).miswiredStage <;> dsimp only
        · exact ⟨hv, hst.trans h, by simp⟩
        · exact ⟨hv.thenGoTo _, by rw [goTo_of_running .measure hg _ rfl, enterMeasure_state], by simp⟩
        · exact ⟨hv.thenGoTo _, by rw [goTo_of_running .exercise hg _ rfl, enterExercise_state], by simp⟩
      · next h => exact ⟨hv, hst.trans (verdictLeaves_pass _ h).symm, by simp⟩
    · rw [if_neg (verdict_ne_of_failed hm), hst]
      have hstage : m.stage = if (false = false ∧ (m.unplanned = true ∨ m.wrongPeer = true ∨ m.mediaMismatch = true)) then
          MiswiredStage.greet else .measure := by
        unfold VerdictMask.stage
        simp [or_assoc]
      split
      · next h =>
        refine ⟨hv.thenStage _, ?_, fun _ _ => by rw [setStage_ctx]; exact hstage⟩
        rw [verdictLeaves_miswired _ h]
        unfold State.portState at *
        rw [setStage_ctx]
        exact hst.trans h
      · next h =>
        have hl := failed_leaves (s := s) (p := p) m.stage false hst hf he.1.run h
        exact ⟨hv.thenGoTo _, hl.1, fun _ e => (hl.2 e).trans hstage⟩

/-! ### What a verdict does to a leg's messages -/

theorem forwards_eq (m : Message) : m.forwards = m.isForwarded := by
  unfold Message.forwards Message.isForwarded
  cases m.body <;> rfl

/-- A leg verdict in RELAYING keeps the leg's messages up to R105. -/
theorem legVerdict_messages (h : s.portState p = .relaying) : LegMessages p s (s.legVerdict p) := by
  obtain ⟨_, hctx⟩ := judgeLeg_ctx (s := s) (p := p)
  have hr := judgeLeg_relayPart (s := s) (p := p)
  have he := (PortEvent.refl (p := p) (s := s)).judgeLeg
  unfold State.legVerdict
  generalize s.judgeLeg p = j at hctx hr he ⊢
  obtain ⟨u, m⟩ := j
  dsimp only at hctx hr he ⊢
  have hst : u.portState p = .relaying := by unfold State.portState; rw [hctx]; exact h
  rw [if_neg (by rw [hst]; simp)]
  split
  · refine ⟨fun _ e => (by rw [hst] at e; cases e), fun _ _ => ⟨relayPart_channel hr, relayPart_drops hr⟩⟩
  · have hg : (!u.run && u.portState p == .handed) = false := by rw [hst]; simp
    rw [goTo_of_running (.miswired .measure) hg _ rfl]
    have hl := enterMiswired_messages (s := u) (p := p) .measure hst
    refine ⟨fun _ e => ?_, fun _ e => ?_⟩
    · obtain ⟨h1, h2⟩ := hl.1 e
      have hd : (u.ctx p).relayDrops = (s.ctx p).relayDrops := relayPart_drops hr
      rw [h1, h2, relayPart_channel hr, hd]
      simp only [forwards_eq]
      exact ⟨trivial, trivial⟩
    · exact absurd e hl.2

theorem reVerdict_messages : LegMessages p s (s.reVerdict p) := by
  by_cases h : s.portState p = .relaying
  · have hr : s.reVerdict p = s.legVerdict p := by unfold State.reVerdict; rw [if_pos (.inl h)]
    rw [hr]
    exact legVerdict_messages h
  · exact ⟨fun e => absurd e h, fun e => absurd e h⟩

/-- What a re-verdict does, said once: what it finds, where it leads, what becomes of a leg's messages (R25, R49, R105). -/
theorem reVerdict_taken : ReVerdict p (s.ctx p) s (s.reVerdict p) := ⟨reVerdict_judges, reVerdict_messages⟩

end Sys2Proof.Machine
end

