-- ==== Sys2Proof/Tests/Slice0.lean ====
section
/-! SUPPORT. Tests: ill-formed commands, worked figures of the spec, and for each statement with hypotheses a state that meets
them, with what the command does there. -/

namespace Sys2Proof.Tests

open Sys2Proof.Machine

set_option Elab.async false

/-! ### Small states -/

/-- What a command answers, where it answers a next state, passes a test. -/
def after (c : Instr) (s : State) (ok : State → Bool) : Bool :=
  match exec c s with
  | .next t => ok t
  | _ => false

/-- The block running with a plan in effect. -/
def running : State := { State.reset with run := true, plan := { resetPlan with inEffect := true } }

/-- Port 3 changed. -/
def with3 (f : Port → Port) : State := running.updPort 3 f

/-- Port 3 in a state. -/
def in3 (st : PortState) : State := with3 fun x => { x with ctx := { x.ctx with state := st } }

/-- A framer with its transmitter on and lock. -/
def lockedFramer : Framer :=
  { resetFramer.cycleLocked with tx := some transmitOn, rxHistory := some 0x7FFF, rxIndex := some 7 }

/-- Port 3 transmitting and LOCKED in a state. -/
def link3 (st : PortState) : State := (in3 st).updPort 3 fun x => { x with framer := lockedFramer }

/-- The entry of port 3 changed. -/
def entry3 (f : Entry → Entry) (s : State) : State :=
  { s with plan := { s.plan with entries := s.plan.entries.set 3 (f s.plan.entries[3]) } }

/-- Port 3 planned for the far end that `peer5` names. -/
def planned3 : State → State := entry3 fun e => { e with declared := .planned, peerChassis := 0x0102, peerPort := 5, tolerance := 255 }

/-- The far end of `planned3`. -/
def peer5 : PeerIdentity := ⟨0x0102, 5, 0, 7, 4⟩

/-- A record: kind, port mask and more fields at their bits. -/
def recordOf (kind mask more : Nat) : BitVec 512 := BitVec.ofNat 512 (kind * 2 ^ 64 + mask * 2 ^ 128 + more)

/-- An order handed to its block. -/
def ordered (s : State) (k : OrderKind) (record : BitVec 512) : State :=
  { s with anchor := 0x1000, walker := .acting (orderOf k 0x1000 record) }

theorem test_ordered_handed (s : State) (k : OrderKind) (record : BitVec 512) :
    (ordered s k record).handed (orderOf k 0x1000 record) := ⟨rfl, rfl⟩

/-- A write has been issued. -/
def wrote (s : State) (a : Address) (bytes : List Byte) : Bool := s.issued.contains (.write a bytes)

/-- An order has completed with an outcome and an applied mask. -/
def done (s : State) (outcome : Byte) (applied : Nat) : Bool :=
  wrote s 0x100A [outcome] && wrote s 0x1014 (leBytes 4 applied) && wrote s 0x1009 [2] && s.walker == .fetching .link false

/-- A scan of two entries whose first check, of a kind, is in flight on port 3. -/
def checking (k : ScanKind) (s : State) : State :=
  { s with scan := { resetScheduler with
      list := [.check 3 k, .skip], state := .running, pacerOn := true, inFlight := some ⟨0, 3, k, 4, 6, 0⟩ } }

/-- That check has ended with a result, and the scan goes on. -/
def checked (r : ScanResult) (t : State) : Bool :=
  t.scan.inFlight == none && t.scan.pointer == 1 && t.scan.state == .running && (t.ctx 3).scanResult == r && (t.ctx 3).scanPass == 4

/-! ### Well-formed commands (WellFormed.lean) -/

theorem test_misaligned_write_refused : (Instr.registerWriteOther 2 0).wellFormed = false := by decide +kernel
theorem test_behaving_write_refused : (Instr.registerWriteOther 4 0).wellFormed = false := by decide +kernel
theorem test_other_writes_accepted :
    (Instr.registerWriteOther 0 7).wellFormed = true ∧ (Instr.registerWriteOther 0x24 7).wellFormed = true := by decide +kernel

/-! ### Worked figures of the spec -/

/-- R110: spreads 16 and 17 on either side, and across the wrap. -/
theorem test_pair_spreads :
    pairSpread 1210 1226 = 16 ∧ pairStable 16 = true ∧ pairStable 17 = false ∧ pairStable (-16) = true ∧
      pairSpread 2810 4 = 10 ∧ pairL2 1210 16 = 2436 ∧ pairL2 1700 14 = 3414 ∧ pairL2 2810 10 = 5630 := by decide +kernel

/-- 06 section 6.6: 300 dm; and the clamps of R119. -/
theorem test_lengths :
    roundTrip 2436 3414 = 218 ∧ netRaw 218 12 8 = 94 ∧ lengthRaw 94 4900 = 300 ∧ lengthClamped (lengthRaw 94 4900) = 300 ∧
      lengthRaw 0 4900 = 0 ∧ lengthClamped 4096 = 4095 := by decide +kernel

/-- R88: the bytes of a message sum to 0. -/
theorem test_message_bytes :
    byteSum (helloBytes ⟨0x0102, 5, 0, 7, 4⟩ true) = 0 ∧ helloBytes ⟨0x0102, 5, 0, 7, 4⟩ true =
      [0x16, 1, 2, 5, 0, 7, 0x83, 0x58] ∧ byteSum (delayBytes 5631 8 true false) = 0 := by decide +kernel

/-- R74: what is scrambled is descrambled. -/
theorem test_scrambler_round_trip :
    (descramble 0x2A5F (scramble 0x2A5F (bitsOf (0xC3A5#16))).1).1 = bitsOf (0xC3A5#16) := by decide +kernel

/-- R81: the CRC of the ASCII digits 1 to 9 with generator 0xD5, from preset 0. -/
theorem test_crc : crcBits 0 ((List.range 9).flatMap fun i => bitsOf (BitVec.ofNat 8 (0x31 + i))) = 0xBC := by decide +kernel

/-! ### Queue and registers -/

theorem test_step_takes_the_front :
    (match step { State.reset with pending := [.pageLowWrite 0x7F, .nudge 1] } with
      | .next t => t.pageLow == 0x40 && t.pending == [.nudge 1]
      | _ => false) = true ∧ step State.reset = .next State.reset := ⟨by decide +kernel, rfl⟩

theorem test_RegisterWindow_met :
    State.reset.run = false ∧ running.run = true ∧
      after (.anchorWrite false 0x107F) State.reset (fun t => t.anchor == 0x1040) = true ∧
      after (.anchorWrite true 0x2) State.reset (fun t => t.anchor == 0x200000000) = true ∧
      after (.anchorWrite false 0x1040) running (fun t => t.anchor == 0) = true ∧
      after (.pageHighWrite 1) { State.reset with pageLow := 0x80 } (fun t => t.pageBase == 0x100000080) = true ∧
      (Instr.registerWriteOther 0 7).wellFormed = true ∧ after (.registerWriteOther 0 7) running (· == running) = true ∧
      writeCommand 0x04 0xF = .warmReset true true true ∧ writeCommand 0x04 0xB = .runSet true true ∧
      writeCommand 0x04 0x8 = .runClear false true ∧ writeCommand 0x24 7 = .registerWriteOther 0x24 7 := by decide +kernel

theorem test_InterruptTests_met :
    let s : State := { State.reset with irqEn := true, summary := 3, summaryEnable := 2, msi := ⟨true, 0x80, 5⟩ }
    after (.summaryWrite 1) s (fun t => t.summary == 2 && t.issued == [.interrupt 0x80 5]) = true ∧
      after (.summaryWrite 2) s (fun t => t.summary == 1 && t.issued == []) = true ∧
      after (.summaryEnableWrite 4) s (fun t => t.summaryEnable == 4 && t.issued == []) = true ∧
      after (.irqEnWrite false false true) s (fun t => t.issued == [.interrupt 0x80 5]) = true := by decide +kernel

theorem test_MillisecondCount_met :
    let s : State := { State.reset with ms := 0xFFFFFFFF, walker := .idle 0 }
    after .millisecondCountAdvance s (fun t => t.ms == 0 && t.sampleElapsed == 1 && t.walker == .idle 1) = true := by decide +kernel

/-! ### RUN, RESUME, warm reset -/

theorem test_RunSet_met :
    let s : State := { State.reset with plan := { resetPlan with inEffect := true }, debounced := 4, anchor := 0x40 }
    let handed : State := { (link3 .handed).updPort 5 (fun x => { x with ctx := { x.ctx with state := .seated } }) with
      run := false, debounced := 0x24, reader := ⟨.idle, none, [5]⟩ }
    s.run = false ∧ s.reader.queue = [] ∧ s.reader.service = none ∧ s.portState 2 = .dormant ∧
      after (.runSet false false) handed (fun t => t.reader.queue == [5, 2] && t.portState 3 == .handed) = true ∧
      after (.runSet false false) s (fun t => t.run && t.portState 2 == .seated && t.portState 3 == .vacant &&
        t.reader.queue == [2] && t.walker == .fetching .link false) = true ∧
      after (.runSet true false) { s with walker := .halted, page := { resetPage with stopped := true } } (fun t =>
        t.run && t.portState 2 == .seated && t.walker == .fetching .link false && !t.page.stopped) = true ∧
      after (.runSet true false) s (fun t => after (.runSet false false) s (· == t)) = true := by decide +kernel

theorem test_RunClear_met :
    (link3 .handed).run = true ∧ (link3 .handed).portState 3 = .handed ∧ (link3 .handed).portState 2 ≠ .handed ∧
      after (.runClear false false) (link3 .handed) (fun t =>
        t.portState 3 == .handed && t.portState 2 == .dormant && t.walker == .stopped) = true ∧
      after (.runClear false false) { link3 .greet with walker := .fetching .link false } (fun t =>
        t.portState 3 == .dormant && (t.port 3).framer.tx == none && t.walker == .fetching .link true) = true ∧
      after (.runClear false false) (ordered running .hold (recordOf 4 8 0)) (fun t =>
        match t.walker with | .stopping _ => true | _ => false) = true ∧
      after (.runClear false false) { running with walker := .fetching (.take 0x40 0) false } (fun t =>
        t.walker == .fetching (.take 0x40 0) false) = true ∧
      after (.runClear true false) { link3 .greet with walker := .halted, page := { resetPage with stopped := true } } (fun t =>
        !t.run && t.portState 3 == .dormant && t.walker == .stopped && !t.page.stopped && t.page.dirty == 0xFFFFFF) = true := by
  decide +kernel

theorem test_Resume_met :
    let s : State := { running with walker := .halted, page := { resetPage with stopped := true, dirty := 0 }, anchor := 0x40 }
    s.walker = .halted ∧ running.walker ≠ .halted ∧
      after (.resume true false) s (fun t => t.walker == .fetching .link false && !t.page.stopped && t.page.dirty == 0xFFFFFF) = true ∧
      after (.resume false false) { s with run := false } (fun t => t.walker == .stopped) = true ∧
      after (.resume true false) running (· == running) = true := by decide +kernel

theorem test_WarmReset_met :
    let s : State := { link3 .handed with
      scan := { resetScheduler with state := .running, inFlight := some ⟨0, 3, .line, 1, 1, 0⟩, checkNo := 1 } }
    s.portState 3 = .handed ∧ s.portState 2 ≠ .handed ∧ (∀ p ∈ s.reader.queue, s.portState p ≠ .handed) ∧ (∀ c, s.scan.inFlight = some c → c.port ≠ 3 ∨ c.kind ≠ .delay) ∧
      after (.warmReset true true true) s (fun t => !t.run && t.irqEn && t.portState 3 == .handed && t.port 3 == s.port 3 &&
        t.scan.state == .idle && t.scan.checkNo == 1) = true ∧
      after (.warmReset false false true) { s with summary := 1, summaryEnable := 1, msi := ⟨true, 0x80, 5⟩ } (fun t =>
        t.irqEn && t.summary == 0 && t.issued == []) = true := by
  refine ⟨by decide +kernel, by decide +kernel, by decide +kernel, ?_, by decide +kernel, by decide +kernel⟩
  intro c h
  cases h
  decide +kernel

/-- Log 47: an ANCHOR write in STOPPING leaves the order in its own record. Log 46: warm reset under the TAKEN write. -/
theorem test_record_addresses :
    let s : State := { ordered running .report (recordOf 15 0 0) with
      run := false, anchor := 0x40, walker := .stopping (orderOf .report 0x1000 (recordOf 15 0 0)) }
    after (.anchorWrite false 0x80) s (fun t => t.anchor == 0x80) = true ∧
      after .report s (fun t => wrote t 0x100A [3] && wrote t 0x1009 [2] && t.anchor == 0x40 && t.walker == .stopped) = true ∧
      after (.warmReset false false false) { running with anchor := 0x40, walker := .fetching (.take 0x1000 0) false }
        (fun t => t.anchor == 0x40 && t.issued == [] && t.walker == .stopped) = true := by decide +kernel

/-! ### Presence and the Watch -/

def noWindows : Vector (Option LineWindow) 24 := Vector.replicate 24 none

/-- A sample of port 3 alone, with a window. -/
def sample3 (present : Bool) (w : Option LineWindow) : Instr :=
  .presenceSample (if present then 8 else 0) (noWindows.set 3 w) 0 false

/-- A state whose sample timer has reached the period. -/
def due (s : State) : State := { s with sampleElapsed := 1 }

theorem test_PresenceDebounce_met :
    running.sampleElapsed < running.samplePeriod ∧ (due running).samplePeriod ≤ (due running).sampleElapsed ∧
      after (sample3 true none) running (· == running) = true ∧
      after (sample3 true none) (due running) (fun t => t.raw == 8 && t.debounced == 0 && t.sampleElapsed == 0) = true ∧
      after (sample3 true none) { due running with raw := 8 } (fun t => t.debounced == 8 && t.page.headerMark) = true := by
  decide +kernel

theorem test_PresenceAtPorts_met :
    let gain : State := { due (in3 .vacant) with raw := 8 }
    let lose : State := { due (link3 .qualified) with debounced := 8 }
    gain.samplePeriod ≤ gain.sampleElapsed ∧ gain.watch.mode = .off ∧ gain.portState 3 = .vacant ∧
      maskHas gain.debounced 3 = false ∧ maskHas lose.debounced 3 = true ∧
      after (sample3 true none) gain (fun t => maskHas t.debounced 3 && t.portState 3 == .seated && t.reader.queue == [3]) = true ∧
      after (sample3 false none) lose (fun t => !maskHas t.debounced 3 && t.portState 3 == .vacant &&
        (t.ctx 3).hasFlag .cablePulled && (t.port 3).framer.tx == none) = true ∧
      after (sample3 false none) { lose with run := false } (fun t => t.portState 3 == .vacant) = true ∧
      after (sample3 false none) { lose with watch := ⟨.event, 0, 0, 0, false⟩ } (fun t => t.portState 3 == .vacant &&
        t.watch.snapshot == 0 && t.summary.getLsbD 2) = true ∧
      after (sample3 true none) { lose with watch := ⟨.matching, 0, 8, 0, false⟩, raw := 8 } (fun t =>
        t.port 3 == lose.port 3 && !t.watch.held) = true := by decide +kernel

theorem test_AwaitFarResults_met :
    let s : State := { due (in3 .awaitFar) with raw := 8, debounced := 8 }
    s.samplePeriod ≤ s.sampleElapsed ∧ s.watch.mode = .off ∧ s.portState 3 = .awaitFar ∧ (s.port 3).framer.tx = none ∧
      (maskHas s.raw 3 = true ∧ maskHas s.debounced 3 = true) ∧
      after (sample3 true (some ⟨8, .ground⟩)) s (fun t => t.portState 3 == .listen && (t.port 3).framer.tx.isSome &&
        (t.port 3).timers.lockSearch == some 0) = true ∧
      after (sample3 true (some ⟨7, .terminationWindow⟩)) s (fun t => t.portState 3 == .listen) = true ∧
      after (sample3 true (some ⟨7, .supply⟩)) s (fun t => t.portState 3 == .latched && (t.ctx 3).lastFault == .short) = true ∧
      after (sample3 true (some ⟨7, .other⟩)) s (fun t => t.portState 3 == .awaitFar && (t.ctx 3).hasFlag .farOpen) = true := by
  decide +kernel

/-- A LINE check in flight at a sample (R60, R159, R160): port 3 in a state, whether its request is old enough, which comes first. -/
theorem test_line_check_at_a_sample :
    let s (st : PortState) : State := { checking .line (due (in3 st)) with raw := 8, debounced := 8 }
    let gone (st : PortState) : State := { s st with raw := 0 }
    let sample (raw : PortMask) (w : LineWindow) (first : PortMask) (ripe : Bool) : Instr :=
      .presenceSample raw (noWindows.set 3 (some w)) first ripe
    after (sample 8 ⟨8, .ground⟩ 0 true) (s .seated) (fun t => checked .terminated t && (t.port 3).offActivity) = true ∧
      after (sample 8 ⟨7, .supply⟩ 0 true) (s .latched) (fun t => checked .short t && t.portState 3 == .latched) = true ∧
      after (sample 8 ⟨0, .other⟩ 0 true) (s .retryWait) (fun t => checked .openLine t && (t.ctx 3).flags == 0) = true ∧
      after (sample 8 ⟨7, .ground⟩ 0 true) (s .awaitFar) (fun t => checked .short t && t.portState 3 == .latched) = true ∧
      after (sample 8 ⟨9, .other⟩ 0 false) (s .seated) (fun t => t.scan == (s .seated).scan) = true ∧
      after (sample 8 ⟨0, .other⟩ 0 false) (s .awaitFar) (fun t => t.scan == (s .awaitFar).scan) = true ∧
      after (sample 8 ⟨9, .other⟩ 0 false) (s .awaitFar) (fun t => checked .good t && t.portState 3 == .listen) = true ∧
      after (sample 0 ⟨0, .other⟩ 0 true) (gone .seated) (fun t => checked .notApplicable t && t.portState 3 == .vacant) = true ∧
      after (sample 0 ⟨0, .other⟩ 8 true) (gone .seated) (fun t => checked .openLine t && t.portState 3 == .vacant) = true ∧
      after (sample 0 ⟨0, .other⟩ 8 false) (gone .seated) (checked .notApplicable) = true := by decide +kernel

/-- The bias and the line termination (R58). -/
theorem test_bias_and_termination :
    (in3 .awaitFar).biasDriven 3 true false = true ∧ (in3 .awaitFar).biasDriven 3 false false = false ∧
      (in3 .seated).biasDriven 3 true true = false ∧ (checking .line (in3 .seated)).biasDriven 3 true true = true ∧
      (checking .line (in3 .seated)).biasDriven 3 true false = false ∧ (link3 .greet).biasDriven 3 true true = false ∧
      (in3 .greet).terminationPresented 3 = true ∧ (link3 .greet).terminationPresented 3 = false ∧
      ((in3 .held).portState 3).transmits = false := by decide +kernel

theorem test_PresenceWatch_met :
    let w (mode : WatchMode) (ignore compare : PortMask) (held : Bool) : State :=
      { due running with raw := 8, watch := ⟨mode, ignore, compare, 0, held⟩ }
    let o := ordered running .watchSetup (recordOf 11 0 (2 * 2 ^ 256 + 3 * 2 ^ 264 + 1 * 2 ^ 288 + 8 * 2 ^ 320))
    after (sample3 true none) (w .event 0 0 false) (fun t => t.watch.snapshot == 8 && t.summary.getLsbD 2) = true ∧
      after (sample3 true none) (w .event 8 0 false) (fun t => t.watch.snapshot == 0 && !t.summary.getLsbD 2) = true ∧
      after (sample3 true none) (w .matching 0 8 false) (fun t => t.watch.held && t.watch.snapshot == 8 && t.summary.getLsbD 3) = true ∧
      after (sample3 true none) (w .matching 0 8 true) (fun t => t.watch.held && t.watch.snapshot == 0) = true ∧
      after .watchSetup o (fun t => t.watch == ⟨.matching, 1, 8, 0, false⟩ && t.samplePeriod == 8 && done t 1 0) = true ∧
      after .watchSetup { o with debounced := 8 } (fun t => t.watch.held && t.watch.snapshot == 0 && t.summary == 0) = true ∧
      after .watchSetup (ordered running .watchSetup (recordOf 11 0 (3 * 2 ^ 256))) (fun t =>
        t.watch == running.watch && done t 3 0) = true ∧
      after .watchSetup (ordered running .watchSetup (recordOf 11 0 (2 ^ (288 + 24)))) (fun t => done t 3 0) = true := by decide +kernel

/-- What the Scheduler does on the events of the Watch (R155, R158). -/
theorem test_watch_events_at_the_scheduler :
    let s (mode : WatchMode) (f : Scheduler → Scheduler) : State := { due running with
      raw := 8, watch := ⟨mode, 0, 8, 0, false⟩, scan := f { resetScheduler with list := [.skip, .skip] } }
    let drained (n : Nat) (ok : Scheduler → Bool) : Bool := after (sample3 true none)
      (s .event fun c => { c with state := .running, pacerOn := true, pointer := 1, stop := .eventThen n }) fun t => ok t.scan
    let stays (mode : WatchMode) (f : Scheduler → Scheduler) : Bool :=
      after (sample3 true none) (s mode f) fun t => t.scan == (s mode f).scan
    drained 0 (fun c => c.state == .idle && !c.pacerOn && c.pointer == 0) = true ∧
      drained 2 (fun c => c.state == .draining && c.postStop == 2 && c.pacerOn && c.pointer == 1) = true ∧
      after (sample3 true none) (s .matching fun c => { c with start := .watchMatch }) (fun t =>
        t.scan.state == .running && t.scan.pointer == 1 && t.scan.pacerOn) = true ∧
      stays .event (fun c => { c with state := .running }) = true ∧ stays .matching id = true ∧
      stays .off (fun c => { c with start := .watchMatch }) = true := by decide +kernel

theorem test_LowSignalCause_met :
    let s := (link3 .greet).updPort 3 fun x => { x with onState := ⟨8, 0, false⟩ }
    let e := (link3 .greet).updPort 3 fun x => { x with onState := ⟨0, 8, true⟩ }
    after (.lowSignalCauseStart 3) s (fun t => (t.port 3).onState.low && (t.ctx 3).hasFlag .lowSignal) = true ∧
      after (.lowSignalCauseEnd 3) e (fun t => !(t.port 3).onState.low) = true ∧
      after (.lowSignalCauseStart 3) (link3 .greet) (· == link3 .greet) = true := by decide +kernel

/-! ### Identity -/

/-- The reader with port 3 in SEATED in service. -/
def reading (phase : ReaderPhase) (v : ReadInService) : State :=
  { in3 .seated with reader := { phase, service := some v, queue := [] } }

/-- A block of R63: OPTICAL, 4 lanes, marked 305 dm, propagation figure 0, an empty serial. -/
def goodBlock : List Byte := withCheck ([0x3C, 3, 4, 1, 0x31, 0, 0] ++ List.replicate 16 0)

theorem test_IdentityRead_met :
    let byte (v : ReadInService) (phase : ReaderPhase) (bus : List BusSign) (w : Option ReadInService) : Bool :=
      after (.identByteComplete 9) (reading .transfer v) (fun t =>
        t.reader.phase == phase && t.identityBus == bus && t.reader.service == w)
    after .identTake { in3 .seated with reader := ⟨.idle, none, [3, 4]⟩ } (fun t =>
        t.reader.phase == .settle && t.reader.queue == [4] && t.reader.selectLines == 3) = true ∧
      after .identSettleEnd (reading .settle ⟨3, 1, 0, [], false⟩) (fun t => t.reader.phase == .transfer &&
        t.identityBus == [.start, .address 0x2A false]) = true ∧
      byte ⟨3, 1, 0, [], false⟩ .transfer [.offset 0] (some ⟨3, 1, 1, [], false⟩) = true ∧
      byte ⟨3, 1, 1, [], false⟩ .transfer [.start, .address 0x2A true] (some ⟨3, 1, 2, [], false⟩) = true ∧
      byte ⟨3, 1, 2, [], false⟩ .transfer [] (some ⟨3, 1, 3, [], false⟩) = true ∧
      byte ⟨3, 1, 3, [7], false⟩ .transfer [.acknowledge] (some ⟨3, 1, 3, [7, 9], false⟩) = true ∧
      byte ⟨3, 1, 3, List.replicate 23 7, false⟩ .transfer [.noAcknowledge, .stop]
        (some ⟨3, 1, 3, List.replicate 23 7 ++ [9], false⟩) = true ∧
      byte ⟨3, 1, 2, [], true⟩ .guardTime [.stop] none = true ∧
      byte ⟨3, 1, 3, [7], true⟩ .guardTime [.noAcknowledge, .stop] none = true ∧
      after .identAddressNack (reading .transfer ⟨3, 2, 0, [], false⟩) (fun t => t.reader.phase == .retryGap &&
        t.identityBus == [.stop]) = true ∧
      after .identRetryGapEnd (reading .retryGap ⟨3, 2, 1, [], false⟩) (fun t =>
        t.reader.service == some ⟨3, 3, 0, [], false⟩ && t.identityBus == [.start, .address 0x2A false]) = true ∧
      after .identGuardEnd { running with reader := ⟨.guardTime, none, []⟩ } (fun t => t.reader.phase == .idle) = true := by
  decide +kernel

theorem test_IdentityOutcome_met :
    goodBlock.length = 24 ∧
      after .identReadDone (reading .transfer ⟨3, 1, 3, goodBlock, false⟩) (fun t => t.portState 3 == .awaitFar &&
        (t.ctx 3).cable == .valid ⟨.optical, 4, 305, 4900, List.replicate 16 0⟩ && t.reader.phase == .guardTime) = true ∧
      after .identReadDone (reading .transfer ⟨3, 1, 3, List.replicate 24 1, false⟩) (fun t =>
        (t.ctx 3).cable == .corrupt && (t.ctx 3).hasFlag .identCorrupt) = true ∧
      after .identAddressNack (reading .transfer ⟨3, 3, 0, [], false⟩) (fun t => t.portState 3 == .awaitFar &&
        (t.ctx 3).cable == .missing && (t.ctx 3).hasFlag .identMissing) = true ∧
      after .identAddressNack (reading .transfer ⟨3, 3, 0, [], true⟩) (fun t => t.portState 3 == .seated) = true ∧
      after .identReadDone (reading .transfer ⟨3, 1, 3, goodBlock, true⟩) (fun t => t.portState 3 == .seated &&
        (t.ctx 3).cable == .none && t.reader.phase == .guardTime) = true := by decide +kernel

/-! ### Sending -/

theorem test_TxCycleStart_met :
    let relay := entry3 (fun e => { e with declared := .relay, peerPort := 4 }) (link3 .relaying)
    let far := relay.updPort 4 fun x => { x with ctx := { x.ctx with state := .relaying }
                                                 framer := { lockedFramer with effective := some 0x94 } }
    ((link3 .greet).port 3).framer.tx.isSome = true ∧
      after (.txCycleStart 3) (link3 .greet) (fun t =>
        match (t.port 3).framer.tx with | some y => y.word == 0x54 && y.crc == 0xFF | none => false) = true ∧
      after (.txCycleStart 3) far (fun t =>
        match (t.port 3).framer.tx with | some y => y.word == 0x95 | none => false) = true ∧
      after (.txCycleStart 3) relay (fun t =>
        match (t.port 3).framer.tx with | some y => y.word == 0xB4 | none => false) = true := by decide +kernel

/-- Every count of cycles at its last step. -/
theorem test_cycle_counts :
    let s : State := (link3 .qualified).updPort 3 fun x => { x with
      timers := { resetTimers with lapse := some 4095, blockWindow := some 8192, greet := some 0 }
      channel := { x.channel with sender := .offer, byteTimer := 31 }
      meter := { x.meter with scanJob := some ⟨false, false, false, 0⟩, scanWait := 511 } }
    let check : State := { s with scan := { s.scan with inFlight := some ⟨0, 3, .peer, 1, 1, 511⟩ } }
    after (.txCycleStart 3) check (fun t =>
        (t.port 3).timers == { resetTimers with lapse := some 4096, blockWindow := some 8192, greet := some 1 } &&
        (t.port 3).channel.byteTimer == 32 && (t.port 3).meter.scanWait == 512 &&
        t.scan.inFlight == some ⟨0, 3, .peer, 1, 1, 512⟩) = true ∧
      after (.txCycleStart 3) (link3 .qualified) (fun t => (t.port 3).meter.scanWait == 0 && (t.port 3).channel.byteTimer == 0) = true := by
  decide +kernel

theorem test_TxFrameStart_met :
    let channel (st : SenderState) (idle : Nat) : Channel :=
      { resetChannel with sender := st, bytes := [0x16, 1], idleRun := idle, offeredS := true, byteTimer := 9 }
    let sender (st : SenderState) (idle : Nat) := (link3 .greet).updPort 3 fun x => { x with channel := channel st idle }
    let frame (st : SenderState) (idle : Nat) (ok : Channel → Channel) : Bool :=
      after (.txFrameStart 3 true) (sender st idle) fun t => (t.port 3).channel == ok (channel st idle)
    frame .idle 2 (fun c => { c with idleRun := 2 }) = true ∧
      frame .offer 2 (fun c => { c with idleRun := 0, onOffer := true, byteTimer := 0 }) = true ∧
      frame .gap 0 (fun c => { c with idleRun := 1 }) = true ∧
      frame .gap 1 (fun c => { c with sender := .offer, idleRun := 2 }) = true ∧
      frame .gap 2 (fun c => { c with sender := .offer, idleRun := 0, onOffer := true, byteTimer := 0 }) = true ∧
    after (.txFrameStart 3 true) (sender .idle 0) (fun t => (t.port 3).onState.above == 1 && (t.port 3).channel.idleRun == 1 &&
        match (t.port 3).framer.tx with | some y => y.frame.extractLsb' 14 8 == 0x47 && y.built | none => false) = true ∧
      after (.txFrameStart 3 false) (sender .offer 2) (fun t => (t.port 3).onState.below == 1 && (t.port 3).channel.onOffer &&
        (t.port 3).channel.idleRun == 0) = true ∧
      after (.txFrameStart 3 true) (sender .gap 0) (fun t => (t.port 3).channel.sender == .gap) = true ∧
      after (.txFrameStart 3 true) (sender .gap 1) (fun t => (t.port 3).channel.sender == .offer) = true ∧
      after (.txFrameStart 3 true) (sender .gap 2) (fun t => (t.port 3).channel.sender == .offer && (t.port 3).channel.onOffer) = true ∧
      after (.txFrameStart 3 true) ((sender .idle 0).updPort 3 fun x => { x with
          framer := { x.framer with tx := x.framer.tx.map fun y => { y with index := 7, built := true } } })
        (fun t => match (t.port 3).framer.tx with | some y => y.index == 0 | none => false) = true := by decide +kernel

theorem test_MessageSendStart_met :
    let q (m : Message) := (link3 .greet).updPort 3 fun x => { x with channel := { x.channel with queue := [m] } }
    after (.messageSendStart 3) (q (ownHello true noPurposes)) (fun t => (t.port 3).channel.sender == .gap &&
        (t.port 3).channel.bytes.length == 8 && byteSum (t.port 3).channel.bytes == 0) = true ∧
      after (.messageSendStart 3) (q (requeuedDelay 5631)) (fun t => (t.port 3).channel.bytes.take 3 == [0x24, 0x15, 0xFF]) = true ∧
      after (.messageSendStart 3) (q ⟨.hello (.forwarded ⟨0x0102, 5, 2, 7, 3⟩) true, noPurposes⟩) (fun t =>
        (t.port 3).channel.bytes.take 7 == [0x16, 1, 2, 5, 2, 7, 0x82]) = true := by
  decide +kernel

/-- Takes at the sender: the first frame with the offered S, the next byte, delivery to a greeting, rejection. -/
theorem test_sender_met :
    let s (st : PortState) (index attempt : Nat) (seen : Option (Bool × Bool)) (heard : Bool) : State :=
      (link3 st).updPort 3 fun x => { x with
        helloHeard := heard
        channel := { x.channel with
          sender := .offer, onOffer := true, offeredS := true, ackSeen := seen, bytes := [1, 2], byteIndex := index, attempt
          sending := some (ownHello true { noPurposes with greeting := true, relay := true }) } }
    let taken (j : Bool) : Option (Bool × Bool) := some (true, j)
    let channel (t : State) : Channel := (t.port 3).channel
    ((s .greet 0 1 none false).senderTakes 3 true false |> channel).ackSeen = some (true, false) ∧
      ((s .greet 0 1 (taken true) false).senderTakes 3 true false |> channel).byteIndex = 0 ∧
      ((s .greet 0 1 (taken false) false).senderTakes 3 true false |> channel).byteIndex = 1 ∧
      (((s .greet 1 1 (taken false) false).senderTakes 3 true false).port 3).helloDelivered = true ∧
      ((s .greet 1 1 (taken false) true).senderTakes 3 true false).portState 3 = .miswired ∧
      ((s .qualified 1 1 (taken false) false).senderTakes 3 true false |> channel).sender = .idle ∧
      ((s .greet 1 3 (taken true) false).senderTakes 3 true true |> channel).attempt = 4 ∧
      (((s .greet 1 4 (taken true) false).senderTakes 3 true true).ctx 3).lastFault = .channelFail ∧
      (((s .qualified 1 4 (taken true) false).senderTakes 3 true true).ctx 3).relayDrops = 1 ∧
      (∀ first, after (.rxFrameFields 3 (ofBits 14 (scramble 0x7FFF [false, false, false, false, false, false, false, false, false,
          false, true, false, false, false]).1) first) (s .greet 0 1 (taken false) false) (fun t =>
        (channel t).byteIndex == 1 && (channel t).lastFrame == some ⟨0, false, false⟩) = true) := by decide +kernel

/-- A message that fails after its fourth attempt, by purpose and state (R95, R112). -/
theorem test_message_failed :
    let s (st : PortState) (x : Purposes) : State :=
      let s := (link3 st).updPort 3 fun y => { y with
        meter := { y.meter with legJob := some ⟨false, false, false, 9⟩, scanJob := some ⟨false, false, false, 0⟩ }
        channel := { y.channel with
          sender := .offer, onOffer := true, byteTimer := 32, attempt := 4, sending := some { requeuedDelay 5 with purposes := x } } }
      { s with scan := { s.scan with inFlight := some ⟨0, 3, .delay, 2, 6, 0⟩ } }
    let x := noPurposes
    after (.byteTimerExpiry 3) (s .measure { x with measurement := [1] }) (fun t => (t.ctx 3).lastFault == .channelFail) = true ∧
      after (.byteTimerExpiry 3) (s .relaying { x with measurement := [1] }) (fun t =>
        (t.port 3).meter.legJob == none && t.portState 3 == .relaying) = true ∧
      after (.byteTimerExpiry 3) (s .qualified { x with scan := [6] }) (fun t => (t.ctx 3).scanResult == .noReply &&
        t.scan.inFlight == none && (t.port 3).meter.scanJob == none) = true ∧
      after (.byteTimerExpiry 3) (s .qualified { x with scan := [5] }) (fun t => t.scan.inFlight.isSome) = true := by decide +kernel

theorem test_ByteTimerExpiry_met :
    let s (n : Nat) (m : Message) := (link3 .greet).updPort 3 fun x => { x with
      channel := { x.channel with sender := .offer, onOffer := true, byteTimer := 32, sending := some m, attempt := n } }
    let greeting := ownHello true { noPurposes with greeting := true }
    after (.byteTimerExpiry 3) (s 3 greeting) (fun t => (t.port 3).channel.attempt == 4 && (t.port 3).channel.sender == .gap) = true ∧
      after (.byteTimerExpiry 3) (s 4 answerHello) (fun t => (t.port 3).channel.sender == .idle && t.portState 3 == .greet) = true ∧
      after (.byteTimerExpiry 3) (s 4 greeting) (fun t => (t.ctx 3).lastFault == .channelFail && t.portState 3 == .retryWait &&
        (t.port 3).framer.tx == none) = true := by decide +kernel

/-! ### Receiving -/

theorem test_FrameLock_met :
    let s := (link3 .listen).updPort 3 fun x => { x with framer := x.framer.lockDropped }
    let bits : BitVec 52 := 0xB8#8 ++ 0x3FFF#14 ++ 0xB8#8 ++ 0x1#14 ++ 0x47#8
    (s.port 3).framer.lock = .search ∧ (∀ i : Fin 3, bits.extractLsb' (22 * i.val) 8 = 0xB8 ∨ bits.extractLsb' (22 * i.val) 8 = 0x47) ∧
      after (.frameLock 3 bits) s (fun t => (t.port 3).framer.lock == .frame && (t.port 3).framer.rxHistory == some 0x4001) = true ∧
      after (.frameLock 3 0) s (· == s) = true := by decide +kernel

theorem test_SyncCheck_met :
    let frame (st : PortState) (run : Nat) := (link3 st).updPort 3 fun x =>
      { x with framer := { x.framer.lockDropped with lock := .frame, rxHistory := some 0, erroredRun := run } }
    let relay := entry3 (fun e => { e with declared := .relay, peerPort := 4 }) (frame .listen 0)
    let lapse := (frame .handed 0).updPort 3 fun x => { x with timers := { x.timers with lapse := some 9 } }
    let dirty : State := (frame .qualified 0).updPort 3 fun x => { x with
      channel := { x.channel with queue := [answerHello], k := true, j := true, lastTakeS := true, rxIdleRun := 2, received := [1] }
      meter := { x.meter with scanJob := some ⟨true, false, false, 1⟩, ownL2 := some 5, phase := .minus } }
    after (.rxSyncCheck 3 ⟨0x47, false⟩) { dirty with scan := { dirty.scan with inFlight := some ⟨0, 3, .delay, 4, 6, 0⟩ } } (fun t =>
        (t.port 3).channel == freshChannel [answerHello] && (t.port 3).meter == (dirty.port 3).meter.emptied &&
        t.scan.inFlight == none && (t.ctx 3).scanResult == .abandoned && (t.ctx 3).scanPass == 4) = true ∧
      after (.rxSyncCheck 3 ⟨0x11, false⟩) (frame .listen 2) (fun t => (t.port 3).framer.erroredRun == 3) = true ∧
      after (.rxSyncCheck 3 ⟨0x11, false⟩) (frame .listen 3) (fun t => (t.port 3).framer.lock == .search) = true ∧
      after (.rxSyncCheck 3 ⟨0xB8, false⟩) (frame .listen 3) (fun t => (t.port 3).framer.erroredRun == 0) = true ∧
      after (.rxSyncCheck 3 ⟨0x47, false⟩) (frame .listen 0) (fun t => t.portState 3 == .greet && (t.port 3).timers.greet == some 0 &&
        (t.port 3).channel.queue.length == 1) = true ∧
      after (.rxSyncCheck 3 ⟨0x47, false⟩) relay (fun t => t.portState 3 == .relaying && (t.port 3).meter.legJob.isSome) = true ∧
      after (.rxSyncCheck 3 ⟨0x47, false⟩) lapse (fun t => t.portState 3 == .handed && (t.port 3).timers.lapse == none &&
        (t.ctx 3).lapseCount == 1) = true ∧
      after (.rxSyncCheck 3 ⟨0x47, false⟩) (link3 .greet) (fun t => (t.port 3).framer.markDue && (t.port 3).framer.rxIndex == some 0) = true ∧
      after (.rxSyncCheck 3 ⟨0xB8, false⟩) (link3 .greet) (fun t => !(t.port 3).framer.markDue && (t.port 3).framer.erroredRun == 1) = true := by
  decide +kernel

theorem test_LockLost_met :
    let s (st : PortState) := (link3 st).updPort 3 fun x => { x with framer := { x.framer with erroredRun := 3 } }
    after (.rxSyncCheck 3 ⟨0x11, false⟩) (s .measure) (fun t => (t.ctx 3).lastFault == .lockLost && t.portState 3 == .retryWait &&
        (t.port 3).framer.lock == .off) = true ∧
      after (.rxSyncCheck 3 ⟨0x11, false⟩) (s .handed) (fun t => t.portState 3 == .handed && (t.port 3).timers.lapse == some 0 &&
        (t.port 3).framer.lock == .search) = true ∧
      after (.rxSyncCheck 3 ⟨0x11, false⟩) (s .miswired) (fun t => t.portState 3 == .listen && (t.port 3).framer.tx.isSome &&
        (t.port 3).framer.lock == .search) = true := by decide +kernel

/-- A check in flight at a port that loses lock (R159, R161, R162). -/
theorem test_checks_at_a_lock_loss :
    let s (k : ScanKind) (st : PortState) : State := (checking k (link3 st)).updPort 3 fun x => { x with
      framer := { x.framer with erroredRun := 3 },
      meter := { x.meter with scanJob := if k = .delay then some ⟨false, false, false, 1⟩ else none } }
    let lost (k : ScanKind) (st : PortState) (first : Bool) (r : ScanResult) : Bool :=
      after (.rxSyncCheck 3 ⟨0x11, first⟩) (s k st) fun t => checked r t && (t.port 3).meter.scanJob == none
    lost .peer .miswired false .abandoned = true ∧ lost .peer .miswired true .notApplicable = true ∧
      lost .peer .qualified true .abandoned = true ∧ lost .peer .handed false .abandoned = true ∧
      lost .delay .miswired true .notApplicable = true ∧ lost .delay .relaying false .abandoned = true ∧
      lost .delay .handed true .abandoned = true := by decide +kernel

/-- The 14 line bits that carry given plain bits 8 to 21 after the history of `lockedFramer`. -/
def lineBits (byte : Byte) (o s k j : Bool) : BitVec 14 :=
  ofBits 14 (scramble 0x7FFF (bitsOf byte ++ [o, s, k, j, false, false])).1

/-- Port 3 in GREET with a channel that has received `got` and a last frame. -/
def receiving (f : Channel → Channel) : State := (link3 .greet).updPort 3 fun x => { x with channel := f x.channel }

theorem test_ReceivedFrames_met :
    let idle := receiving fun c => { c with receiver := .body, received := [0x16], remaining := 7, rxIdleRun := 1 }
    let head := receiving fun c => { c with lastFrame := some ⟨0x16, true, true⟩ }
    let bytes := helloBytes ⟨0x0102, 5, 0, 7, 4⟩ false
    let last (b : Byte) := receiving fun c =>
      { c with lastFrame := some ⟨b, true, true⟩, receiver := .body, received := bytes.take 7, remaining := 1 }
    fieldsOf (descramble 0x7FFF (bitsOf (lineBits 0x16 true true false false))).1 = ⟨0x16, true, true, false, false⟩ ∧
      after (.rxFrameFields 3 (lineBits 0 false false false false) true) idle (fun t =>
        (t.port 3).channel.receiver == .header && (t.port 3).framer.wholeCycle) = true ∧
      after (.rxFrameFields 3 (lineBits 0x16 true true false false) true) head (fun t => (t.port 3).channel.k &&
        (t.port 3).channel.receiver == .body && (t.port 3).channel.remaining == 7) = true ∧
      after (.rxFrameFields 3 (lineBits 0x17 true true false false) true) head (fun t =>
        t.port 3 == ((head.updPort 3 fun x => { x with channel :=
          { x.channel with lastFrame := some ⟨0x17, true, true⟩ }, framer := (t.port 3).framer }).port 3)) = true ∧
      after (.rxFrameFields 3 (lineBits 5 true true false false) true)
        (receiving fun c => { c with lastFrame := some ⟨5, true, true⟩, receiver := .body, received := [0x16], remaining := 7 })
        (fun t => (t.port 3).channel.received == [0x16, 5] && (t.port 3).channel.remaining == 6 && (t.port 3).channel.k) = true ∧
      after (.rxFrameFields 3 (lineBits 0xD8 true true false false) true) (last 0xD8) (fun t => !(t.port 3).channel.j &&
        (t.port 3).helloHeard && (t.ctx 3).peer == some ⟨0x0102, 5, 0, 7, 4⟩) = true ∧
      after (.rxFrameFields 3 (lineBits 0xD9 true true false false) false) (last 0xD9) (fun t => (t.port 3).channel.j &&
        (t.ctx 3).peer == none) = true := by decide +kernel

/-- An accepted HELLO, by the state of the port (R100). -/
theorem test_hello_by_state :
    let s (st : PortState) := planned3 (link3 st)
    let wired := (s .greet).updPort 3 fun x => { x with helloDelivered := true }
    let wrong := (s .miswired).updCtx 3 fun c => { c with miswiredStage := .greet }
    let check : State := { s .qualified with scan := { resetScheduler with inFlight := some ⟨0, 3, .peer, 1, 1, 0⟩ } }
    let leg := entry3 (fun e => { e with declared := .relay, peerPort := 4 }) (link3 .miswired)
    (s .listen).helloReceived 3 peer5 true = s .listen ∧
      (((s .greet).helloReceived 3 peer5 true).port 3).helloHeard = true ∧
      (wired.helloReceived 3 peer5 true).portState 3 = .measure ∧
      (((s .measure).helloReceived 3 peer5 true).port 3).channel.queue.length = 1 ∧
      ((s .exercise).helloReceived 3 peer5 false).ctx 3 = (s .exercise).ctx 3 ∧
      ((s .qualified).helloReceived 3 peer5 true).portState 3 = .qualified ∧
      ((s .handed).helloReceived 3 { peer5 with port := 6 } true).portState 3 = .miswired ∧
      (wrong.helloReceived 3 peer5 true).portState 3 = .measure ∧
      ((check.helloReceived 3 peer5 false).ctx 3).scanResult = .replied ∧
      ((leg.helloReceived 3 peer5 true).ctx 3).relayDrops = 1 := by decide +kernel

/-- An accepted DELAY, by the state of the port and its jobs (R101, R113 to R115). -/
theorem test_delay_by_state :
    let r (answer : Bool) : DelayRecord := ⟨3414, 8, false, answer⟩
    let s (st : PortState) (m : Meter) : State := planned3 ((link3 st).updPort 3 fun x => { x with meter := m })
    let job (measured delivered : Bool) : Option Job := some ⟨measured, delivered, false, 1⟩
    let own (j : Option Job) : Meter := { resetMeter with ownL2 := some 2436, measureJob := j }
    let leg := entry3 (fun e => { e with declared := .relay, peerPort := 4, nominal := 300, tolerance := 10 })
      ((link3 .relaying).updPort 3 fun x => { x with meter := { own none with legJob := job true true } })
    let scan : State := { s .qualified { own none with scanJob := job true false } with
      scan := { resetScheduler with inFlight := some ⟨0, 3, .delay, 4, 1, 0⟩ } }
    (s .listen resetMeter).delayReceived 3 (r false) = s .listen resetMeter ∧
      (((s .greet resetMeter).delayReceived 3 (r false)).port 3).meter.peerRecord = some (r false) ∧
      (((s .measure (own (job false true))).delayReceived 3 (r false)).port 3).channel.queue.length = 1 ∧
      (((s .measure (own (job false false))).delayReceived 3 (r false)).port 3).channel.queue.length = 0 ∧
      (((s .measure (own (job true true))).delayReceived 3 (r true)).ctx 3).length = some 338 ∧
      ((s .measure (own (job true true))).delayReceived 3 (r true)).portState 3 = .miswired ∧
      ((s .measure (own (job true true))).delayReceived 3 { r true with unstable := true }).portState 3 = .retryWait ∧
      (((s .exercise resetMeter).delayReceived 3 (r false)).port 3).meter.answerJob.isSome = true ∧
      (s .exercise resetMeter).delayReceived 3 (r true) = s .exercise resetMeter ∧
      ((leg.delayReceived 3 (r true)).ctx 3).length = some 338 ∧ (leg.delayReceived 3 (r true)).portState 3 = .miswired ∧
      (leg.delayReceived 3 { r true with unstable := true }).portState 3 = .relaying ∧
      ((scan.delayReceived 3 (r true)).ctx 3).scanResult = .length ∧
      ((scan.delayReceived 3 { r true with unstable := true }).ctx 3).scanResult = .unstable := by decide +kernel

theorem test_RelayForwards_met :
    let s := (entry3 (fun e => { e with declared := .relay, peerPort := 4 }) (link3 .relaying))
    let t := s.updPort 4 fun x => { x with ctx := { x.ctx with state := .relaying } }
    t.partner 3 = some 4 ∧ t.scan.inFlight = none ∧
      ((t.helloReceived 3 ⟨9, 1, 2, 1, 4⟩ true).port 4).channel.queue.length = 1 ∧
      ((t.helloReceived 3 ⟨9, 1, 3, 1, 4⟩ true).ctx 3).relayDrops = 1 ∧
      ((s.helloReceived 3 ⟨9, 1, 0, 1, 4⟩ false).ctx 3).relayDrops = 1 := by decide +kernel

/-- R89: a message in the place of the waiting one of its type. -/
theorem test_merge :
    let hello : Message := ⟨.hello .own true, { noPurposes with greeting := true }⟩
    let delay (a : Bool) (n : Nat) : Message := ⟨.delay n false a, { noPurposes with scan := [n] }⟩
    enqueueMessage [] hello = [hello] ∧ enqueueMessage [delay true 1] hello = [delay true 1, hello] ∧
      enqueueMessage [delay true 1, hello] answerHello =
        [delay true 1, ⟨.hello .own true, { noPurposes with greeting := true, answer := true }⟩] ∧
      enqueueMessage [delay true 1, hello] (delay false 2) = [⟨.delay 2 false false, { noPurposes with scan := [1, 2] }⟩, hello] := by
  decide +kernel

/-- Port 3 at the end of a received cycle: the pending word, the held CRC, the CRC bits received. -/
def cycleEnd (st : PortState) (word : Option (BitVec 8)) (held : Option (BitVec 8)) (bits : BitVec 8) (f : Port → Port) : State :=
  (link3 st).updPort 3 fun x => f { x with framer := { x.framer with wholeCycle := true, pendingWord := word, rxHeldCrc := held,
                                                                     rxCrcBits := bits, assembled := some 0x44, rxCrc := some 7 } }

theorem test_RxCycleEnd_met :
    after (.rxCycleEnd 3) (cycleEnd .greet none none 0 id) (fun t => (t.port 3).framer.pendingWord == some 0x44 &&
        (t.port 3).framer.rxHeldCrc == some 7 && (t.ctx 3).nbe == 0) = true ∧
      after (.rxCycleEnd 3) (cycleEnd .greet (some 0x54) (some 1) 2 id) (fun t => (t.ctx 3).nbe == 1 &&
        (t.port 3).framer.fbeRequest && (t.port 3).framer.effective == none) = true ∧
      after (.rxCycleEnd 3) (cycleEnd .greet (some 0x50) (some 1) 1 id) (fun t => (t.ctx 3).fbe == 1 &&
        (t.port 3).framer.effective == some 0x50 && (t.port 3).followRun == 1 && (t.port 3).notReadyRun == 1) = true := by decide +kernel

theorem test_BlockErrorBudget_met :
    let s (n : Nat) := entry3 (fun e => { e with threshold := 2 }) (cycleEnd .handed (some 0x9C) (some 1) 2 fun x =>
      { x with ctx := { x.ctx with windowCount := n }, timers := { x.timers with blockWindow := some 8192 } })
    after (.rxCycleEnd 3) (s 1) (fun t => (t.ctx 3).windowCount == 2 && !(t.port 3).degradedCause && t.portState 3 == .handed &&
        (t.port 3).framer.fbeRequest && (t.port 3).framer.pendingWord == some 0x44 && maskHas t.page.dirty 3) = true ∧
      after (.rxCycleEnd 3) (s 7) (fun t => (t.ctx 3).windowCount == 8 && (t.ctx 3).hasFlag .degraded && t.portState 3 == .handed) = true ∧
      after (.rxCycleEnd 3) (s 8) (fun t => (t.ctx 3).windowCount == 9 && (t.ctx 3).lastFault == .linkErrors &&
        t.portState 3 == .retryWait) = true ∧
      after (.blockErrorWindowEnd 3) (s 5) (fun t => (t.ctx 3).windowCount == 0 && (t.port 3).timers.blockWindow == some 0) = true := by
  decide +kernel

theorem test_PeerWords_met :
    let s (st : PortState) (w : BitVec 8) (f : Port → Port) := cycleEnd st (some w) (some 1) 1 f
    let heard (st : PortState) (w : BitVec 8) (quiet fbe : Nat) : Bool := after (.rxCycleEnd 3) (s st w id) fun t =>
      t.portState 3 == st && (t.port 3).framer.effective == some w && (t.port 3).framer.rxHeldCrc == some 7 &&
        (t.port 3).notReadyRun == quiet && (t.ctx 3).fbe == fbe
    heard .handed 0x84 1 0 = true ∧ heard .handed 0x98 0 1 = true ∧ heard .qualified 0x8C 0 0 = true ∧
      heard .exercise 0x76 1 0 = true ∧
      after (.rxCycleEnd 3) (s .qualified 0x8C fun x => { x with ready := true }) (fun t => t.portState 3 == .handed &&
        (t.port 3).handover && (t.port 3).timers.blockWindow == some 0) = true ∧
      after (.rxCycleEnd 3) (s .qualified 0x54 fun x => { x with followRun := 1 }) (fun t => t.portState 3 == .greet) = true ∧
      after (.rxCycleEnd 3) (s .handed 0x54 fun x => { x with followRun := 1 }) (fun t => (t.ctx 3).lastFault == .peerWithdrew) = true ∧
      after (.rxCycleEnd 3) (s .handed 0x84 fun x => { x with notReadyRun := 1, handover := true }) (fun t =>
        t.portState 3 == .qualified && !(t.port 3).handover) = true := by decide +kernel

/-- A check in flight at a port in QUALIFIED whose peer moves on, or follows (R116, R159). -/
theorem test_checks_at_a_peer_word :
    let s (k : ScanKind) (w : BitVec 8) : State := checking k (cycleEnd .qualified (some w) (some 1) 1 fun x =>
      { x with ready := true, followRun := 1, meter := { x.meter with scanJob := some ⟨false, false, false, 1⟩ } })
    let follows (k : ScanKind) : Bool := after (.rxCycleEnd 3) (s k 0x54) fun t =>
      checked .notApplicable t && t.portState 3 == .greet && (t.port 3).meter.scanJob == none
    after (.rxCycleEnd 3) (s .peer 0x8C) (fun t => t.portState 3 == .handed && t.scan == (s .peer 0x8C).scan) = true ∧
      follows .peer = true ∧ follows .delay = true := by decide +kernel

/-! ### Delay and length -/

theorem test_ArrivalMark_met :
    let s (m : Meter) := (link3 .measure).updPort 3 fun x => { x with framer := { x.framer with markDue := true }, meter := m }
    let job : Option Job := some ⟨false, false, false, 1⟩
    let minus (lp n : Nat) (j : Option Job) (a : Option Job) : Meter :=
      { resetMeter with phase := .minus, lp := some lp, pairNumber := some n, measureJob := j, answerJob := a }
    after (.arrivalMark 3 7) (s resetMeter) (fun t => !(t.port 3).framer.markDue && (t.port 3).meter == resetMeter) = true ∧
      after (.arrivalMark 3 7) (s { resetMeter with phase := .plus }) (fun t => (t.port 3).meter.lp == some 7 &&
        (t.port 3).meter.phase == .minus) = true ∧
      after (.arrivalMark 3 1226) (s (minus 1210 1 none job)) (fun t => (t.port 3).meter.ownL2 == some 2436 &&
        (t.port 3).meter.answerJob == none && (t.port 3).channel.queue.length == 1) = true ∧
      after (.arrivalMark 3 2800) (s (minus 0 1 none job)) (fun t => (t.port 3).meter.ownL2 == some 5616) = true ∧
      after (.arrivalMark 3 1227) (s (minus 1210 2 job none)) (fun t => (t.port 3).meter.pairNumber == some 3 &&
        (t.port 3).meter.phase == .plus) = true ∧
      after (.arrivalMark 3 1227) (s (minus 1210 3 job none)) (fun t => (t.ctx 3).lastFault == .delayUnstable) = true ∧
      after (.arrivalMark 3 7) (link3 .measure) (· == link3 .measure) = true := by decide +kernel

/-- The DELAY that the end of a measurement queues, by the jobs that take part (R111, R112, log 44), and the jobs it completes. -/
theorem test_measurement_ends :
    let job : Option Job := some ⟨false, true, true, 1⟩
    let m : Meter := { resetMeter with
      phase := .minus, lp := some 1210, pairNumber := some 3, measurementNo := 1, peerRecord := some ⟨3414, 8, false, true⟩ }
    let s (st : PortState) (m : Meter) : State :=
      let s := planned3 ((link3 st).updPort 3 fun x => { x with framer := { x.framer with markDue := true }, meter := m })
      { s with scan := { resetScheduler with inFlight := some ⟨0, 3, .delay, 4, 6, 0⟩ } }
    let queued (t : State) : List (MessageBody × Purposes) := (t.port 3).channel.queue.map fun m => (m.body, m.purposes)
    after (.arrivalMark 3 1226) (s .measure { m with measureJob := job }) (fun t => (t.ctx 3).length == some 338 &&
        t.portState 3 == .miswired) = true ∧
      after (.arrivalMark 3 1226) (s .qualified { m with scanJob := some ⟨false, false, false, 1⟩ }) (fun t =>
        queued t == [(.delay 2436 false false, { noPurposes with scan := [6] })]) = true ∧
      after (.arrivalMark 3 1226) (s .qualified m) (fun t => queued t == [(.delay 2436 false true, noPurposes)]) = true ∧
      after (.arrivalMark 3 1300) (s .qualified m) (fun t => queued t == [] && (t.port 3).meter.phase == .idle) = true ∧
      after (.arrivalMark 3 1300) (s .relaying { m with legJob := job }) (fun t =>
        queued t == [(.delay 0 true true, { noPurposes with answer := true })] && (t.port 3).meter.legJob == none) = true ∧
      after (.arrivalMark 3 1300) (s .qualified { m with scanJob := job }) (fun t => (t.ctx 3).scanResult == .unstable &&
        t.scan.inFlight == none) = true := by decide +kernel

theorem test_LengthComputed_met :
    let s := entry3 (fun e => { e with trim := 12, tolerance := 4 }) ((link3 .measure).updPort 3 fun x => { x with
      ctx := { x.ctx with cable := .valid ⟨.optical, 4, 305, 4900, []⟩ } })
    let t := s.storeLength 3 2436 ⟨3414, 8, false, false⟩
    let u := s.storeLength 3 100 ⟨3, 8, false, false⟩
    let v := s.storeLength 3 5000 ⟨600, 8, false, false⟩
    (t.ctx 3).length = some 300 ∧ (t.ctx 3).hasFlag .lengthDisagrees = true ∧ (t.ctx 3).hasFlag .delayNegative = false ∧
      (u.ctx 3).length = some 0 ∧ (u.ctx 3).hasFlag .delayNegative = true ∧
      (v.ctx 3).length = some 4095 ∧ (v.ctx 3).hasFlag .lengthSat = true := by decide +kernel

/-! ### Lane exercise -/

/-- Port 3 in EXERCISE holds exerciser 1 with a grant. -/
def granted (f : Grant → Grant) : State :=
  let s := (link3 .exercise).updPort 3 fun x => { x with
    ctx := { x.ctx with heldExerciser := some 1 }, selectorCode := some 1, timers := { x.timers with peerStart := some 4096 } }
  { s with pool := { s.pool with owners := s.pool.owners.set 1 (some (f (newGrant 3 2))) } }

theorem test_ExerciserGrant_met :
    let s : State := { granted id with pool := { (granted id).pool with
      owners := (granted id).pool.owners.set 0 (some (newGrant 5 1)), requests := [4] } }
    let full : State := { s with pool := { s.pool with owners := Vector.replicate 4 (some (newGrant 5 1)) } }
    (4 : PortId) ∈ s.pool.requests ∧ s.pool.owners[2] = none ∧
      after (.exerciserGrant 4) s (fun t => (t.ctx 4).heldExerciser == some 2 && (t.port 4).selectorCode == some 2 &&
        (t.port 4).timers.peerStart == some 0) = true ∧
      after (.exerciserGrant 4) full (fun t => t.pool.queue == [4] && t.pool.requests == []) = true := by decide +kernel

/-- Effective words at the Pool (R129, R134), by phase: the window opens, the peer stops. -/
theorem test_pool_words :
    let s (w : BitVec 8) (f : Grant → Grant) : State :=
      (granted f).updPort 3 fun x => { x with
        ctx := { x.ctx with results := some ⟨#v[true, true, false, false], some 0, none, Vector.replicate 4 0⟩ }
        framer := { x.framer with wholeCycle := true, pendingWord := some w, rxHeldCrc := some 1, rxCrcBits := 1 } }
    let grant (t : State) (ok : Grant → Bool) : Bool := (t.grantOf 3).any ok
    (s 0x76 id).grantOf 3 = some (newGrant 3 2) ∧
      after (.rxCycleEnd 3) (s 0x76 id) (fun t => grant t (·.phase == .training) && (t.port 3).timers.peerStart == none) = true ∧
      after (.rxCycleEnd 3) (s 0x74 id) (fun t => grant t (·.phase == .start) && (t.port 3).timers.peerStart == some 4096) = true ∧
      after (.rxCycleEnd 3) (s 0x74 fun g => { g with phase := .training }) (fun t => grant t (·.peerStop == 1)) = true ∧
      after (.rxCycleEnd 3) (s 0x76 fun g => { g with phase := .soak, peerStop := 1 }) (fun t => grant t (·.peerStop == 0)) = true ∧
      after (.rxCycleEnd 3) (s 0x74 fun g => { g with phase := .training, peerStop := 1 }) (fun t =>
        (t.ctx 3).stallCount == 1 && grant t (·.phase == .start)) = true ∧
      after (.rxCycleEnd 3) (s 0x74 fun g => { g with phase := .soak, peerStop := 1 }) (fun t => (t.ctx 3).stallCount == 1) = true ∧
      after (.rxCycleEnd 3) (s 0x74 fun g => { g with phase := .soak, peerStop := 1, units := 1 }) (fun t =>
        (t.ctx 3).hasFlag .shortSoak && (t.ctx 3).heldExerciser == none && t.portState 3 == .qualified) = true := by decide +kernel

/-- The grant of `granted` with lane 0's checker replaced. -/
def checker0 (phase : GrantPhase) (c : Checker) : State :=
  granted fun g => { g with phase, checkers := g.checkers.set 0 c }

/-- The checker of lane 0 of exerciser 1. -/
def lane0 (s : State) : Option Checker := s.pool.owners[(1 : ExerciserId)].map fun g => g.checkers[0]

theorem test_LanesAndSelector_met :
    let s : State := { granted id with selector := ⟨none, true, none⟩ }
    s.selector.loading = none ∧ s.selector.changePending = true ∧
      after .laneSelectorLoadStart s (fun t => t.selector.loading == some s.selectorCodes && !t.selector.changePending) = true ∧
      after .laneSelectorLoadDone { s with selector := ⟨some s.selectorCodes, true, none⟩ } (fun t =>
        t.selector == ⟨none, true, some s.selectorCodes⟩) = true ∧
      s.laneOutput 0 0 0 = none ∧ (granted fun g => { g with patternOn := true }).laneOutput 1 2 0 = none ∧
      (List.range 24).map ((granted fun g => { g with patternOn := true }).laneOutput 1 0) =
        (bitsOf (laneSeed 0) ++ [true]).map some := by decide +kernel

/-- R126, R127: a checker finds its marker, proves 64 bits, arrives at the next marker, and errs. -/
theorem test_checkers_met :
    let found (bits : BitVec 23) (ok : Option Checker → Bool) : Bool :=
      after (.checkerMarkerFound 1 ⟨0, bitsOf bits⟩ 40) (checker0 .training ⟨.search, 0, 0, [], 0⟩) fun t => ok (lane0 t)
    let proving (n : Nat) : Checker := ⟨.proving n, laneSeed 0, 0, [40], 0⟩
    let late : Checker := ⟨.locked, 0, runBits - 1, [40], 0⟩
    let errs (phase : GrantPhase) (c : Checker) (last : Bool) (ok : Option Checker → Bool) : Bool :=
      after (.laneCheckerError 1 ⟨0, [last]⟩) (checker0 phase c) fun t => ok (lane0 t)
    found 0x4C3A91 (· == some (proving 0)) = true ∧ found 0x4C3A90 (· == some ⟨.search, 0, 0, [], 0⟩) = true ∧
      (proving 63).inStep 0 ∧ late.inStep 0 ∧ (proving 63).expects 0 1 = [true] ∧
      after (.checkerLocked 1 ⟨0, [true]⟩) (checker0 .training (proving 63)) (fun t =>
        lane0 t == some ⟨.locked, 0x187523, 1, [40], 0⟩) = true ∧
      after (.checkerLocked 1 ⟨0, [false]⟩) (checker0 .training (proving 63)) (fun t => lane0 t == some (proving 63)) = true ∧
      after (.checkerLocked 1 ⟨0, (proving 0).expects 0 64⟩) (checker0 .training (proving 0)) (fun t =>
        (lane0 t).any (·.state == .locked)) = true ∧
      errs .training (proving 63) false (· == some ⟨.search, laneSeed 0, 0, [], 0⟩) = true ∧
      errs .training (proving 63) true (· == some (proving 63)) = true ∧
      late.expects 0 1 = [true] ∧
      after (.markerArrival 1 ⟨0, [true]⟩ 90) (checker0 .training late) (fun t =>
        lane0 t == some ⟨.locked, laneSeed 0, 0, [90, 40], 0⟩) = true ∧
      after (.markerArrival 1 ⟨0, []⟩ 90) (checker0 .training late) (fun t => lane0 t == some late) = true ∧
      errs .soak { late with errors := 65534 } false (fun c => c.any fun c => c.errors == 65535 && c.position == runBits) = true ∧
      errs .soak { late with errors := 65535 } false (fun c => c.any fun c => c.errors == 65535) = true ∧
      errs .training { late with errors := 4 } false (fun c => c.any fun c => c.errors == 4) = true ∧
      errs .soak late true (· == some late) = true ∧ errs .soak ⟨.search, 0, 0, [], 0⟩ true (· == some ⟨.search, 0, 0, [], 0⟩) = true ∧
      (∀ c ∈ [Instr.checkerMarkerFound 0 ⟨0, bitsOf (laneSeed 0)⟩ 40, .checkerLocked 0 ⟨0, [true]⟩, .markerArrival 0 ⟨0, [true]⟩ 90,
        .laneCheckerError 0 ⟨0, [false]⟩], after c (checker0 .soak late) (· == checker0 .soak late) = true) := by
  refine ⟨by decide +kernel, by decide +kernel, ⟨by decide +kernel, fun _ => rfl⟩,
    ⟨by decide +kernel, fun h => absurd h (by decide +kernel)⟩, ?_⟩
  decide +kernel

theorem test_PeerStartStall_met :
    let s (n : Nat) (q : List PortId) : State :=
      let s := (granted id).updCtx 3 fun c => { c with stallCount := n }
      { s with pool := { s.pool with queue := q } }
    after (.peerStartExpiry 3) (s 1 []) (fun t => (t.ctx 3).stallCount == 2 && (t.ctx 3).heldExerciser == some 1 &&
        t.pool.queue == [] && (t.port 3).timers.peerStart == some 0) = true ∧
      after (.peerStartExpiry 3) (s 0 [7]) (fun t => (t.ctx 3).heldExerciser == none && t.pool.queue == [3] &&
        (t.ctx 7).heldExerciser == some 1) = true ∧
      after (.peerStartExpiry 3) (s 2 []) (fun t => (t.ctx 3).stallCount == 3 && (t.ctx 3).lastFault == .peerStall) = true := by decide +kernel

theorem test_TrainingEnd_met :
    let s := granted fun g => { g with phase := .training, phaseCount := 8, checkers :=
      (g.checkers.set 0 ⟨.locked, 0, 0, [100], 5⟩).set 1 ⟨.locked, 0, 0, [104, 900], 5⟩ }
    let dead := granted fun g => { g with phase := .training, phaseCount := 8 }
    let wide (a : Nat) := granted fun g => { g with phase := .training, phaseCount := 8, checkers :=
      (g.checkers.set 0 ⟨.locked, 0, 0, [100], 5⟩).set 1 ⟨.locked, 0, 0, [a], 5⟩ }
    let skew (a : Nat) (n : Nat) (clamped : Bool) : Bool := after (.trainingEnd 3) (wide a) fun t =>
      (t.ctx 3).hasFlag .skewClamped == clamped && match (t.ctx 3).results with | some r => r.skew == some n | none => false
    skew 163 63 false = true ∧ skew 164 63 true = true ∧ skew 36 64 false = true ∧ skew 35 64 true = true ∧
    after (.trainingEnd 3) s (fun t =>
        match (t.ctx 3).results, t.grantOf 3 with
        | some r, some h => r.live == #v[true, true, false, false] && r.skew == some 4 && r.deskew == some #v[4, 0, 0, 0] &&
            h.phase == .soak && h.soakLength == 512 && h.checkers[0].errors == 0
        | _, _ => false) = true ∧
      after (.trainingEnd 3) dead (fun t =>
        match (t.ctx 3).results with | some r => r.skew == none && r.deskew == none | none => false) = true := by decide +kernel

theorem test_SoakEnds_met :
    let live : Vector Bool 4 := #v[true, true, false, false]
    let s (skew errors : Nat) (live : Vector Bool 4) : State :=
      let s := granted fun g => { g with phase := .soak, phaseCount := 512, soakLength := 512,
                                         checkers := g.checkers.set 0 ⟨.locked, 0, 0, [], errors⟩ }
      entry3 (fun e => { e with skewLimit := 4, allowance := 2 })
        (s.updCtx 3 fun c => { c with results := some ⟨live, some skew, none, Vector.replicate 4 0⟩ })
    (s 4 2 live).portState 3 = .exercise ∧ (3 : PortId) ∉ (s 4 2 live).pool.queue ∧
      after (.soakUnitEnd 3) (s 4 2 live) (fun t =>
        match (t.ctx 3).results, t.grantOf 3 with | some r, some g => r.errors == #v[2, 0, 0, 0] && g.units == 1 | _, _ => false) = true ∧
      after (.soakEnd 3) (s 4 2 live) (fun t => t.portState 3 == .qualified && (t.ctx 3).heldExerciser == none &&
        (t.ctx 3).results.any (·.errors == #v[2, 0, 0, 0])) = true ∧
      (∀ x ∈ [(HandoverPolicy.auto, 0x8C#8, PortState.handed), (.manual, 0x8C#8, .qualified), (.auto, 0x84#8, .qualified)],
        after (.soakEnd 3) (entry3 (fun e => { e with policy := x.1 }) ((s 4 2 live).updPort 3 fun y =>
          { y with framer := { y.framer with effective := some x.2.1 } })) (fun t => t.portState 3 == x.2.2) = true) ∧
      after (.soakEnd 3) (s 5 2 live) (fun t => (t.ctx 3).lastFault == .skew) = true ∧
      after (.soakEnd 3) (s 5 3 live) (fun t => (t.ctx 3).lastFault == .errorRate) = true ∧
      after (.soakEnd 3) (s 4 0 #v[true, false, false, false]) (fun t => (t.ctx 3).lastFault == .errorRate) = true := by decide +kernel

/-! ### Timers and retry -/

theorem test_TimerExpiries_met :
    let s (st : PortState) (t : Timers) := (link3 st).updPort 3 fun x => { x with timers := t }
    let check (k : ScanKind) (w : Nat) : State :=
      let s := (link3 .qualified).updPort 3 fun x => { x with meter := { x.meter with
        scanJob := some ⟨false, false, false, 0⟩, scanWait := 512 } }
      { s with scan := { s.scan with inFlight := some ⟨0, 3, k, 1, 1, w⟩ } }
    after (.lockSearchExpiry 3) (s .listen { resetTimers with lockSearch := some 2048 }) (fun t => (t.ctx 3).lastFault == .noLock) = true ∧
      after (.lockSearchExpiry 3) (s .listen { resetTimers with lockSearch := some 2047 }) (fun t => t.portState 3 == .listen) = true ∧
      after (.greetTimerExpiry 3) (s .greet { resetTimers with greet := some 1024 }) (fun t => (t.ctx 3).lastFault == .noGreeting) = true ∧
      after (.peerDelayWaitExpiry 3) (s .measure { resetTimers with peerDelay := some 512 }) (fun t =>
        (t.ctx 3).lastFault == .delayUnstable) = true ∧
      after (.lapseExpiry 3) (s .handed { resetTimers with lapse := some 4096 }) (fun t => (t.ctx 3).lastFault == .linkLost) = true ∧
      after (.peerReplyWaitExpiry 3) (check .peer 512) (fun t => (t.ctx 3).scanResult == .noReply && t.scan.inFlight == none &&
        (t.ctx 3).hasFlag .peerNoReply) = true ∧
      after (.scanWaitExpiry 3) (check .delay 0) (fun t => (t.ctx 3).scanResult == .noReply && (t.port 3).meter.scanJob == none) = true := by
  decide +kernel

/-- Port 3 with a retry policy, counter and RETRY_FULL. -/
def retry3 (st : PortState) (policy : RetryPolicy) (n : Nat) (full : Bool) : State :=
  entry3 (fun e => { e with retryPolicy := policy, retryClass := 1 }) ((link3 st).updPort 3 fun x => { x with
    ctx := { x.ctx with retryCounter := n, retryFull := full }
    timers := { x.timers with lockSearch := some 2048, retryRemaining := some 0 } })

theorem test_RetryDecision_met :
    let f (p : RetryPolicy) (n : Nat) (full : Bool) := (retry3 .listen p n full).fault 3 .noLock
    ¬ (running.run = false ∧ running.portState 3 = .handed) ∧
      (f .noRetry 0 false).portState 3 = .latched ∧ (f .unlimited 15 false).portState 3 = .retryWait ∧
      (f .limited 14 false).portState 3 = .retryWait ∧ ((f .limited 14 false).ctx 3).retryFull = false ∧
      (f .limited 15 false).portState 3 = .retryWait ∧ ((f .limited 15 false).ctx 3).retryFull = true ∧
      (f .limited 16 true).portState 3 = .latched := by decide +kernel

theorem test_RetryPeriod_met :
    (((retry3 .greet .limited 0 false).enterRetryWait 3).port 3).timers.retryLength = some 32 ∧
      (((retry3 .greet .limited 15 true).enterRetryWait 3).port 3).timers.retryRemaining = some 128 := by decide +kernel

theorem test_RetryPeriodEnd_met :
    let s (p : RetryPolicy) (n : Nat) (full : Bool) := retry3 .retryWait p n full
    after (.retryPeriodEnd 3) (s .limited 14 false) (fun t => (t.ctx 3).retryCounter == 15 && t.portState 3 == .awaitFar) = true ∧
      after (.retryPeriodEnd 3) (s .limited 15 true) (fun t => (t.ctx 3).retryCounter == 16) = true ∧
      after (.retryPeriodEnd 3) (s .unlimited 15 false) (fun t => (t.ctx 3).retryCounter == 15) = true ∧
      after (.retryPeriodEnd 3) (s .noRetry 0 false) (fun t => (t.ctx 3).retryCounter == 0) = true := by decide +kernel

theorem test_PlanChangeNotice_met :
    let s (st : PortState) (n : Notice) : State :=
      { ((retry3 st .limited 9 false).updPort 3 fun x => { x with notices := [n] }) with debounced := 8 }
    after (.planChangeNotice 3) (s .latched ⟨true, false, false⟩) (fun t => t.portState 3 == .retryWait &&
        (t.ctx 3).retryCounter == 0 && (t.port 3).notices == []) = true ∧
      after (.planChangeNotice 3) (s .latched ⟨false, true, false⟩) (fun t => t.portState 3 == .latched) = true ∧
      after (.planChangeNotice 3) (s .retryWait ⟨false, true, false⟩) (fun t => (t.port 3).timers.retryRemaining == some 32) = true ∧
      after (.planChangeNotice 3) (s .qualified ⟨false, false, true⟩) (fun t => t.portState 3 == .seated) = true ∧
      after (.planChangeNotice 3) (s .held ⟨false, false, true⟩) (fun t => t.portState 3 == .held) = true ∧
      after (.planChangeNotice 3) (s .exercise ⟨false, false, false⟩) (fun t => t.portState 3 == .miswired &&
        (t.ctx 3).miswiredStage == .greet && (t.ctx 3).lastVerdict == .unplanned) = true ∧
      after (.planChangeNotice 3) (s .greet ⟨false, false, false⟩) (fun t => t.portState 3 == .greet) = true := by decide +kernel

/-- A notice that judges again (R45, R49): READY and handover, the budget, a resume from MISWIRED, a leg. -/
theorem test_notice_judges_again :
    let s (st : PortState) (threshold : Nat) (f : Port → Port) : State := entry3 (fun e => { e with policy := .auto, threshold }) (planned3
      ((link3 st).updPort 3 fun x => f { x with
        notices := [⟨false, false, false⟩], ctx := { x.ctx with windowCount := 9 }, handover := st == .handed }))
    let word (w : BitVec 8) (x : Port) : Port := { x with framer := { x.framer with effective := some w } }
    let stage (x : Port) : Port := { x with ctx := { x.ctx with miswiredStage := .measure } }
    let far (x : Port) : Port := { x with ctx := { x.ctx with peer := some { peer5 with chassis := 9 } } }
    let leg := entry3 (fun e => { e with declared := .relay, peerPort := 4, nominal := 300, tolerance := 10 })
      ((link3 .relaying).updPort 3 fun x => { x with notices := [⟨false, false, false⟩], ctx := { x.ctx with length := some 311 } })
    after (.planChangeNotice 3) (s .qualified 0 (word 0x84)) (fun t => t.portState 3 == .qualified && (t.port 3).ready) = true ∧
      after (.planChangeNotice 3) (s .qualified 0 (word 0x8C)) (fun t => t.portState 3 == .handed) = true ∧
      after (.planChangeNotice 3) (s .handed 0 id) (fun t => t.portState 3 == .handed && (t.ctx 3).flags == 0x80) = true ∧
      after (.planChangeNotice 3) (s .handed 3 id) (fun t => t.portState 3 == .handed && (t.port 3).degradedCause) = true ∧
      after (.planChangeNotice 3) (s .handed 2 id) (fun t => (t.ctx 3).lastFault == .linkErrors) = true ∧
      after (.planChangeNotice 3) (s .handed 0 far) (fun t => t.portState 3 == .miswired && (t.ctx 3).miswiredStage == .greet) = true ∧
      after (.planChangeNotice 3) (s .miswired 0 stage) (fun t => t.portState 3 == .exercise) = true ∧
      after (.planChangeNotice 3) leg (fun t => t.portState 3 == .miswired && (t.ctx 3).lastVerdict == .lengthMismatch) = true := by
  decide +kernel

/-- A leg that leaves RELAYING for MISWIRED drops the HELLOs that wait to be forwarded, one that stays keeps them (R105). -/
theorem test_leg_drops_forwarded :
    let forwarded : Message := ⟨.hello (.forwarded peer5) true, noPurposes⟩
    let leg (length : Nat) : State := entry3 (fun e => { e with declared := .relay, peerPort := 4, nominal := 300, tolerance := 10 })
      ((link3 .relaying).updPort 3 fun x => { x with
        notices := [⟨false, false, false⟩], ctx := { x.ctx with length := some length, relayDrops := 65534 }
        channel := { x.channel with queue := [forwarded, answerHello, forwarded], sender := .offer, sending := some forwarded } })
    let left (length : Nat) (st : PortState) (q : List Message) (n : Nat) : Bool := after (.planChangeNotice 3) (leg length) fun t =>
      t.portState 3 == st && (t.port 3).channel.queue == q && (t.port 3).channel.sending == some forwarded && (t.ctx 3).relayDrops == n
    left 311 .miswired [answerHello] 65535 = true ∧ left 310 .relaying [forwarded, answerHello, forwarded] 65534 = true := by
  decide +kernel

/-! ### The walker -/

theorem test_WalkerReads_met :
    let s (w : Walker) : State := { running with anchor := 0x1000, walker := w }
    after (.nudge 0) (s (.idle 0)) (fun t => t.walker == .fetching .link false) = true ∧
      after (.nudge 5) (s .halted) (· == s .halted) = true ∧
      after .walkTimerExpiry (s (.idle 1)) (fun t => t.walker == .fetching .link false) = true ∧
      (∀ w ∈ [Walker.idle 0, .stopped, .halted, .fetching .link false], after .walkTimerExpiry (s w) (· == s w) = true) ∧
      after (.linkReadDone 0) (s (.fetching .link false)) (fun t => t.walker == .idle 0) = true ∧
      after (.linkReadDone 0x1020) (s (.fetching .link false)) (fun t => t.walker == .halted && t.lastWorkFault == .badLink) = true ∧
      after (.linkReadDone 0x1000) (s (.fetching .link false)) (fun t => t.lastWorkFault == .staleLink) = true ∧
      after (.linkReadDone 0x1040) (s (.fetching .link false)) (fun t => t.walker == .fetching (.record 0x1040) false) = true ∧
      after (.linkReadDone 0x1040) { s (.fetching .link true) with run := false } (fun t => t.walker == .stopped) = true ∧
      after (.linkReadDone 0x1020) (s (.fetching .link true)) (fun t => t.walker == .fetching .link false) = true ∧
      after (.recordReadDone 0) { s (.fetching (.record 0x1040) true) with run := false } (fun t =>
        t.walker == .stopped && t.issued == []) = true ∧
      after (.recordReadDone 0) { s (.fetching (.record 0x1040) true) with anchor := 0 } (fun t =>
        t.walker == .idle 0 && t.page.headerMark) = true ∧
      after (.recordReadDone (recordOf 4 8 0)) (s (.fetching (.record 0x1040) false)) (fun t => wrote t 0x1049 [1]) = true ∧
      after (.recordReadDone (recordOf 4 8 (2 ^ 72))) (s (.fetching (.record 0x1040) false)) (fun t =>
        t.lastWorkFault == .staleLink && t.walker == .halted) = true := by decide +kernel

theorem test_TakenWrite_met :
    let s (r : BitVec 512) : State := { running with anchor := 0x40, walker := .fetching (.take 0x1000 r) false }
    after .takenWriteDone (s (recordOf 4 0xFFFFFF 0)) (fun t => t.anchor == 0x1000 && t.handedOrder .hold != none) = true ∧
      after .takenWriteDone (s (recordOf 16 0 (2 ^ 88))) (fun t => done t 2 0 && t.summary.getLsbD 0) = true ∧
      after .takenWriteDone (s (recordOf 4 (2 ^ 24) 0)) (fun t => done t 3 0 && t.summary == 0) = true ∧
      after .takenWriteDone { s (recordOf 16 0 (2 ^ 88)) with irqEn := true, summaryEnable := 1, msi := ⟨true, 0x80, 5⟩ } (fun t =>
        t.issued.drop 2 == [.write 0x1009 [2], .interrupt 0x80 5]) = true ∧
      after .takenWriteDone (s (recordOf 2 (2 ^ 24) 0)) (fun t => t.issued.take 2 == [.write 0x100A [3], .write 0x1014 [0, 0, 0, 0]] &&
        t.issued.drop 3 == [.write 0x1009 [2]] && t.plan == running.plan) = true ∧
      after .takenWriteDone { s (recordOf 0 0 0) with run := false } (fun t => t.walker == .stopped) = true := by decide +kernel

/-! ### Plans -/

/-- A header that passes: chassis 5, epoch 2. -/
def goodHeader : BitVec 128 := BitVec.ofNat 128 (0xC7 + 2 * 2 ^ 8 + 5 * 2 ^ 16 + 24 * 2 ^ 32)

/-- The order of a load that its block has taken. -/
def loading (l : PlanLoad) : State :=
  { running with anchor := 0x1000, walker := .acting { orderOf .loadPlan 0x1000 (recordOf 1 0 0) with stage := .working },
                 plan := { running.plan with load := some l } }

theorem test_loading_working (l : PlanLoad) :
    (loading l).working { orderOf .loadPlan 0x1000 (recordOf 1 0 0) with stage := .working } := ⟨rfl, rfl⟩

theorem test_LoadPlan_met :
    after .loadPlan (ordered running .loadPlan (recordOf 1 0 (0x30 * 2 ^ 192))) (fun t => t.plan.load == some .header) = true ∧
      after .loadPlan (ordered running .loadPlan (recordOf 1 0 (0x38 * 2 ^ 192))) (fun t => t.plan == running.plan &&
        wrote t 0x100A [3]) = true ∧
      after (.planHeaderReadDone goodHeader) (loading .header) (fun t => t.plan.load == some (.entries 5 2 [] 0)) = true ∧
      after (.planHeaderReadDone 0) (loading .header) (fun t => t.plan.load == none && wrote t 0x100A [3]) = true := by decide +kernel

/-- R35, R36: the fields of a raw entry at the ends of their ranges. -/
theorem test_entries_read :
    let raw (n : Nat) : BitVec 128 := BitVec.ofNat 128 n
    let ok : Nat := 1 + 23 * 2 ^ 8 + 65534 * 2 ^ 16 + 4095 * 2 ^ 48 + 4 * 2 ^ 80 + 2 ^ 88 + 127 * 2 ^ 96
    (entryOf (raw ok)).broken = none ∧ entryClamps (raw ok) = 0 ∧ (entryOf (raw ok)).nominal = 4095 ∧
      (entryOf (raw (ok + 2 ^ 8))).broken = some .field ∧ (entryOf (raw (ok + 2 ^ 16))).broken = some .field ∧
      (entryOf (raw (ok + 2))).declared = .unplanned ∧ (entryOf (raw (ok + 2))).broken = some .field ∧
      (entryOf (raw (ok + 4 * 2 ^ 34))).broken = some .field ∧ (entryOf (raw (ok + 3 * 2 ^ 40))).broken = some .field ∧
      entryClamps (raw (2 ^ 60 + 5 * 2 ^ 80 + 128 * 2 ^ 96)) = 4 ∧ (entryOf (raw (5 * 2 ^ 80))).lanes = 4 ∧
      (entryOf (raw 0)).lanes = 1 ∧ (entryOf (raw (128 * 2 ^ 96))).skewLimit = 127 := by decide +kernel

theorem test_PlanSwap_met :
    let full := loading (.entries 5 2 (List.replicate 23 defaultEntry) 1)
    let relay : BitVec 128 := BitVec.ofNat 128 (2 + 22 * 2 ^ 8 + 2 ^ 80 + 2 ^ 88)
    after (.planEntryReadDone 0) (loading (.entries 5 2 [] 0)) (fun t =>
        match t.plan.load with | some (.entries _ _ l n) => l.length == 1 && n == 2 | _ => false) = true ∧
      after (.planEntryReadDone relay) full (fun t => t.plan.chassis == 5 && t.plan.epoch == 2 && t.plan.load == none &&
        (t.entry 23).broken == some .pairing && (t.port 23).notices.length == 1 && (t.port 3).notices == [] &&
        wrote t 0x1038 [1, 1]) = true := by decide +kernel

theorem test_PlanPatch_met :
    let r (mask : Nat) := recordOf 2 mask ((1 + 2 ^ 8 + 7 * 2 ^ 16 + 2 ^ 80 + 2 ^ 88) * 2 ^ 256)
    let cold : State := { running with plan := resetPlan }
    after .planPatch (ordered cold .planPatch (r 8)) (fun t => wrote t 0x100A [4] && t.plan == resetPlan) = true ∧
      after .planPatch (ordered cold .planPatch (r 0)) (fun t => wrote t 0x100A [4] && t.plan == resetPlan) = true ∧
      after .planPatch (ordered running .planPatch (r 0)) (fun t => wrote t 0x100A [1] && t.plan == running.plan) = true ∧
      after .planPatch (ordered running .planPatch (r 8)) (fun t => (t.entry 3).effective == .planned &&
        (t.entry 2) == defaultEntry && (t.port 3).notices.length == 1 && wrote t 0x1014 [8, 0, 0, 0] && wrote t 0x1038 [0, 0]) = true := by
  decide +kernel

/-! ### Orders on ports -/

theorem test_MaskOrders_met :
    let s := ordered (in3 .qualified) .hold (recordOf 4 0x18 0)
    s.handed (orderOf .hold 0x1000 (recordOf 4 0x18 0)) ∧ (orderOf .hold 0x1000 (recordOf 4 0x18 0)).kind.command = some .hold ∧
      after (.hold 8) s (fun t => t.portState 3 == .held && t.portState 4 == .dormant &&
        match t.walker with | .acting o => o.waiting == 0x10 && o.applied == 8 | _ => false) = true ∧
      after (.hold 0x18) s (fun t => t.portState 4 == .held && done t 1 0x18) = true ∧
      after (.clearFlags 8) (ordered running .clearFlags (recordOf 8 8 (0x8000 * 2 ^ 256))) (fun t => done t 3 0) = true := by
  refine ⟨⟨rfl, rfl⟩, rfl, by decide +kernel, by decide +kernel, by decide +kernel⟩

theorem test_PortMoves_met :
    let s (st : PortState) (k : OrderKind) (kind : Nat) : State := ordered { link3 st with debounced := 8 } k (recordOf kind 8 0)
    after (.hold 8) (s .handed .hold 4) (fun t => t.portState 3 == .held && (t.port 3).framer.tx == none && done t 1 8) = true ∧
      after (.hold 8) { s .handed .hold 4 with run := false } (fun t => t.portState 3 == .dormant) = true ∧
      after (.release 8) (s .held .release 5) (fun t => t.portState 3 == .seated) = true ∧
      after (.release 8) { s .held .release 5 with plan := resetPlan } (fun t => t.portState 3 == .dormant) = true ∧
      after (.restart 8) { s .greet .restart 3 with debounced := 0 } (fun t => t.portState 3 == .vacant) = true ∧
      after (.restart 8) (s .held .restart 3) (fun t => t.portState 3 == .held && done t 1 0) = true ∧
      after (.delatch 8) (s .latched .delatch 6) (fun t => t.portState 3 == .awaitFar) = true := by decide +kernel

/-- A check in flight at a port that an order moves (R117, R159). -/
theorem test_checks_at_an_order :
    let s (k : ScanKind) (st : PortState) (o : OrderKind) (kind : Nat) (job : Bool) : State :=
      ordered { (checking k (link3 st)).updPort 3 (fun x => { x with
        framer := if job then x.framer else resetFramer, meter := { x.meter with scanJob := some ⟨false, false, false, 1⟩ } }) with
        debounced := 8 } o (recordOf kind 8 0)
    after (.hold 8) (s .line .retryWait .hold 4 false) (checked .notApplicable) = true ∧
      after (.delatch 8) (s .line .latched .delatch 6 false) (fun t => t.scan == (s .line .latched .delatch 6 false).scan) = true ∧
      after (.restart 8) (s .line .retryWait .restart 3 false) (fun t => t.scan == (s .line .retryWait .restart 3 false).scan) = true ∧
      after (.restart 8) (s .peer .handed .restart 3 true) (checked .notApplicable) = true ∧
      after (.hold 8) (s .delay .qualified .hold 4 true) (checked .abandoned) = true ∧
      after (.release 8) (s .delay .held .release 5 false) (fun t => checked .notApplicable t && (t.port 3).meter.scanJob == none) = true := by
  decide +kernel

theorem test_restart_takes_the_ports_below :
    let s : State := (ordered { running with debounced := 0xFFFFFF } .restart (recordOf 3 0x18 0))
    let t := (s.updPort 3 fun x => { x with ctx := { x.ctx with state := .greet } }).updPort 4 fun x =>
      { x with ctx := { x.ctx with state := .greet } }
    after (.restart 0x10) t (fun u => u.reader.queue == [3, 4] && done u 1 0x18) = true := by decide +kernel

theorem test_ClearOrders_met :
    let s := (in3 .vacant).updPort 3 fun x => { x with
      ctx := { x.ctx with flags := 0x7FFF, retryCounter := 16, retryFull := true }, degradedCause := true }
    after (.clearRetries 8) (ordered s .clearRetries (recordOf 7 8 0)) (fun t => (t.ctx 3).retryCounter == 0 && !(t.ctx 3).retryFull) = true ∧
      after (.clearFlags 8) (ordered s .clearFlags (recordOf 8 8 (0x7FFF * 2 ^ 256))) (fun t => (t.ctx 3).flags == 8 && done t 1 8) = true ∧
      after (.clearFlags 8) (ordered s .clearFlags (recordOf 8 8 (0x10 * 2 ^ 256))) (fun t => (t.ctx 3).flags == 0x7FEF) = true := by
  decide +kernel

theorem test_HandoverOrders_met :
    let s (st : PortState) (w : Option (BitVec 8)) (k : OrderKind) (kind : Nat) := ordered ((link3 st).updPort 3 fun x => { x with
      framer := { x.framer with effective := w }, handover := st == .handed, ready := true,
      timers := { x.timers with lapse := some 5 } }) k (recordOf kind 8 0)
    after (.handover 8) (s .qualified (some 0x8C) .handover 9) (fun t => t.portState 3 == .handed && (t.port 3).handover) = true ∧
      after (.handover 8) (s .qualified (some 0x84) .handover 9) (fun t => t.portState 3 == .qualified && (t.ctx 3).armed &&
        (t.port 3).ready) = true ∧
      after (.withdraw 8) (s .handed (some 0x8C) .withdraw 10) (fun t => t.portState 3 == .qualified && (t.ctx 3).inhibited &&
        !(t.port 3).ready && !(t.port 3).handover && (t.port 3).timers.lapse == some 5) = true ∧
      after (.withdraw 8) { s .handed none .withdraw 10 with run := false } (fun t => t.portState 3 == .dormant) = true := by decide +kernel

/-! ### Scans -/

/-- The scheduler with a list. -/
def scanning (f : Scheduler → Scheduler) (l : List ScanEntry) (s : State) : State :=
  { s with scan := f { resetScheduler with list := l, pacerOn := true, elapsed := 1, state := .running } }

theorem test_ScanSetups_met :
    let r (count mode period : Nat) := recordOf 12 0 (count * 2 ^ 256 + mode * 2 ^ 264 + 2 ^ 280 + period * 2 ^ 320 + 8 * 2 ^ 192)
    let x : ScanSetup := ⟨1, .singlePass, .order, .order, 1, [], 0, 0⟩
    let working (x : ScanSetup) : State := { running with
      anchor := 0x1000, walker := .acting { orderOf .scanSetup 0x1000 (r 1 0 1) with stage := .working }
      scan := { resetScheduler with setup := some x } }
    let full (start : StartSource) : ScanSetup := { x with entries := [.check 3 .expect], start }
    after .scanSetup (ordered running .scanSetup (r 64 1 60001)) (fun t =>
        match t.scan.setup with
        | some x => x.count == 64 && x.period == 60000 && x.stop == .passes 1 && x.clamps == 2 && x.mode == .continuous
        | none => false) = true ∧
      after .scanSetup (ordered running .scanSetup (r 65 0 1)) (fun t => wrote t 0x100A [3] && t.scan == running.scan) = true ∧
      after .scanSetup (ordered running .scanSetup (r 64 2 1)) (fun t => wrote t 0x100A [3]) = true ∧
      after (.scanListEntryReadDone 0x0517) (working x) (fun t => t.scan.setup == some { x with entries := [.check 23 .expect] }) = true ∧
      after (.scanListEntryReadDone 0x0518) (working x) (fun t => t.scan.setup == some { x with entries := [.skip], invalid := 1 }) = true ∧
      after (.scanListEntryReadDone 0x10503) (working x) (fun t => t.scan.setup == some { x with entries := [.skip] }) = true ∧
      after .scanSetupInstall (working (full .order)) (fun t => t.scan.list == [.check 3 .expect] && t.scan.state == .idle &&
        wrote t 0x1038 [0, 0]) = true ∧
      after .scanSetupInstall (working (full .immediate)) (fun t => (t.ctx 3).scanResult == .notApplicable &&
        t.summary.getLsbD 4) = true := by decide +kernel

theorem test_ScanStarts_met :
    let o (k : OrderKind) (s : State) := ordered s k (recordOf 13 0 0)
    let idle := scanning (fun c => { c with state := .idle, pacerOn := false }) [.check 3 .line, .skip] (in3 .seated)
    let busy := scanning (fun c => { c with inFlight := some ⟨0, 3, .line, 1, 1, 0⟩ }) [.check 3 .line] (in3 .seated)
    after .scanStart (o .scanStart running) (fun t => done t 4 0) = true ∧
      after .scanStart (o .scanStart busy) (fun t => done t 1 0 && t.scan == busy.scan) = true ∧
      after .scanStart (o .scanStart idle) (fun t => done t 1 0 && t.scan.state == .running &&
        t.scan.inFlight == some ⟨0, 3, .line, 1, 1, 0⟩) = true ∧
      after .scanStart (o .scanStart { idle with scan := { idle.scan with list := [.skip, .skip], passes := 7, overruns := 2 } }) (fun t =>
        t.scan.state == .running && t.scan.pointer == 1 && t.scan.passes == 0 && t.scan.overruns == 0 && t.scan.checkNo == 0) = true ∧
      after .scanStart (o .scanStart { idle with scan := { idle.scan with list := [.skip] } }) (fun t =>
        t.scan.state == .idle && t.scan.passes == 1 && !t.scan.pacerOn) = true ∧
      after .scanStart (o .scanStart { idle with scan := { idle.scan with list := [.skip], mode := .continuous } }) (fun t =>
        t.scan.state == .running && t.scan.passes == 1 && t.scan.pacerOn) = true ∧
      after .scanStop (o .scanStop busy) (fun t => done t 1 0 && t.scan.state == .draining) = true ∧
      after .scanStop (o .scanStop { busy with scan := { busy.scan with inFlight := none } }) (fun t => t.scan.state == .idle) = true := by
  decide +kernel

theorem test_ScanTicks_met :
    let s (st : PortState) (k : ScanKind) := scanning id [.check 3 k, .skip] (link3 st)
    let budget (n : Nat) (s : State) : State :=
      entry3 (fun e => { e with threshold := 2 }) (s.updCtx 3 fun c => { c with windowCount := n })
    let drain (n : Nat) := scanning (fun c => { c with state := .draining, postStop := n }) [.skip, .skip, .skip] running
    after .pacerTick (drain 0) (fun t => t.scan.state == .draining && t.scan.elapsed == 0) = true ∧
      after .pacerTick (drain 1) (fun t => t.scan.state == .idle && t.scan.pointer == 0) = true ∧
      after .pacerTick (drain 2) (fun t => t.scan.state == .draining && t.scan.pointer == 1 && t.scan.postStop == 1) = true ∧
      after .pacerTick (scanning (fun c => { c with inFlight := some ⟨0, 3, .line, 1, 1, 0⟩, overruns := 254 }) [.skip] running)
        (fun t => t.scan.overruns == 255 && t.scan.pointer == 0) = true ∧
      after .pacerTick (scanning id [.skip] running) (fun t => t.scan.passes == 1 && t.scan.state == .idle && t.summary.getLsbD 4) = true ∧
      after .pacerTick (s .greet .line) (fun t => (t.ctx 3).scanResult == .good && t.scan.pointer == 1) = true ∧
      after .pacerTick (s .seated .line) (fun t => t.scan.inFlight.isSome && t.scan.pointer == 0) = true ∧
      after .pacerTick (s .handed .peer) (fun t => t.scan.inFlight.isSome && (t.port 3).channel.queue.length == 1) = true ∧
      after .pacerTick (s .exercise .peer) (fun t => (t.ctx 3).scanResult == .notApplicable) = true ∧
      after .pacerTick (s .miswired .delay) (fun t => (t.port 3).meter.scanJob.isSome && (t.ctx 3).scanResult == .none) = true ∧
      after .pacerTick (s .handed .counts) (fun t => (t.ctx 3).scanResult == .copied && maskHas t.page.dirty 3) = true ∧
      after .pacerTick (budget 8 (s .handed .counts)) (fun t => t.portState 3 == .handed && (t.ctx 3).hasFlag .degraded) = true ∧
      after .pacerTick (budget 9 (s .handed .counts)) (fun t => (t.ctx 3).scanResult == .copied &&
        (t.ctx 3).lastFault == .linkErrors) = true ∧
      after .pacerTick (scanning (fun c => { c with mode := .continuous, stop := .passes 2, passes := 1 }) [.skip] running)
        (fun t => t.scan.passes == 2 && t.scan.state == .idle && !t.scan.pacerOn) = true ∧
      after .pacerTick (scanning (fun c => { c with mode := .continuous, stop := .passes 3, passes := 1 }) [.skip] running)
        (fun t => t.scan.passes == 2 && t.scan.state == .running) = true ∧
      after .pacerTick (entry3 (fun e => { e with declared := .planned }) (s .vacant .expect)) (fun t =>
        (t.ctx 3).scanResult == .absentPlanned && (t.ctx 3).hasFlag .missing) = true := by decide +kernel

/-! ### Reports, errors, the page -/

theorem test_Report_met :
    let o (mask target : Nat) := ordered (link3 .greet) .report (recordOf 15 mask (target * 2 ^ 192))
    let writing : State := { link3 .greet with
      anchor := 0x1000
      walker := .acting { orderOf .report 0x1000 (recordOf 15 8 0) with stage := .reporting 0x2000 3 [1, 2] } }
    after .report (o 8 0x2000) (fun t =>
        match t.walker with | .acting ⟨_, _, _, _, _, _, .reporting a p l⟩ => a == 0x2000 && p == 3 && l.length == 128 | _ => false) = true ∧
      after .report (o 8 0x2020) (fun t => done t 3 0) = true ∧ after .report (o 0 0x2000) (fun t => done t 3 0) = true ∧
      after .report (o 0x18 0x2000) (fun t => done t 3 0) = true ∧
      after .reportWriteDone writing (fun t => wrote t 0x2000 [1, 2] && done t 1 8) = true := by decide +kernel

theorem test_MemoryError_met :
    let fetch : State := { running with walker := .fetching .link false }
    let setup : State := { running with
      anchor := 0x1000, walker := .acting { orderOf .scanSetup 0x1000 (recordOf 12 0 0) with stage := .working }
      scan := { resetScheduler with setup := some ⟨2, .singlePass, .order, .order, 1, [.skip], 0, 0⟩ } }
    let writing : State := { link3 .greet with
      anchor := 0x1000
      walker := .acting { orderOf .report 0x1000 (recordOf 15 8 0) with stage := .reporting 0x2000 3 [1, 2] } }
    let paging : State := { running with page := { resetPage with busy := some ⟨.header, 0x40⟩ } }
    let halted (t : State) : Bool := t.walker == .halted && t.lastWorkFault == .memory && t.page.stopped && t.summary.getLsbD 5
    after (.memoryAccessError .linkRead) fetch halted = true ∧
      after (.memoryAccessError .recordRead) { running with walker := .fetching (.record 0x40) false } halted = true ∧
      after (.memoryAccessError .takenWrite) { running with walker := .fetching (.take 0x40 0) false } halted = true ∧
      after (.memoryAccessError .pageWrite) paging (fun t => halted t && t.page.busy == none) = true ∧
      after (.memoryAccessError .planRead) (loading .header) (fun t => halted t && t.plan == running.plan && wrote t 0x100A [5]) = true ∧
      after (.memoryAccessError .listRead) setup (fun t => halted t && t.scan.setup == none && wrote t 0x100A [5]) = true ∧
      after (.memoryAccessError .reportWrite) { writing with anchor := 0x40 } (fun t => halted t && t.issued == [.write 0x100A [5]]) = true ∧
      after (.memoryAccessError (.recordWrite 0x1000)) (ordered (in3 .greet) .hold (recordOf 4 8 0)) (fun t =>
        halted t && t.portState 3 == .held && t.issued == []) = true ∧
      after (.memoryAccessError .linkRead) { running with walker := .halted, lastWorkFault := .memory } (fun t =>
        t == { running with walker := .halted, lastWorkFault := .memory }) = true ∧
      after (.memoryAccessError .linkRead) running (· == running) = true := by decide +kernel

/-- Late errors (R176, log 8): on the DONE write of an earlier record during an order, in a halt for a bad link, on a write that cold
reset has stopped; and a setup that its block has not begun. -/
theorem test_late_memory_errors :
    let hold := ordered (in3 .greet) .hold (recordOf 4 8 0)
    let earlier (s : State) : State := { s with issued := [.write 0x2009 [2]] }
    let badLink : State := earlier { running with walker := .halted, lastWorkFault := .badLink }
    let setup : State := { ordered running .scanSetup (recordOf 12 (2 ^ 24) 0) with
      scan := { resetScheduler with list := [.skip], state := .running, pacerOn := true } }
    after (.memoryAccessError (.recordWrite 0x2000)) (earlier hold) (fun t =>
        t.walker == .halted && t.portState 3 == .held && t.issued == [.write 0x2009 [2], .write 0x100A [5]]) = true ∧
      after (.memoryAccessError (.recordWrite 0x2000)) hold (· == hold) = true ∧
      after (.memoryAccessError (.recordWrite 0x2000)) badLink (fun t => t.lastWorkFault == .memory && t.page.stopped) = true ∧
      after (.memoryAccessError .pageWrite) { running with issued := [.write 0x40 (List.replicate 60 0)] } (fun t =>
        t.walker == .halted) = true ∧
      after (.memoryAccessError (.recordWrite 0x2000)) { earlier running with accessesFrom := 1 } (fun t => t.walker == running.walker) = true ∧
      after .coldReset (earlier running) (fun t => t.accessesFrom == 1 && t.issued == (earlier running).issued) = true ∧
      after (.memoryAccessError (.recordWrite 0x1000)) setup (fun t => t.scan.list == [] && t.scan.state == .idle && !t.scan.pacerOn) = true := by
  decide +kernel

/-- A late error on an order that takes no time: its effect is there (R176, log 8). -/
theorem test_late_orders :
    let late (s : State) (ok : State → Bool) : Bool :=
      after (.memoryAccessError (.recordWrite 0x1000)) s fun t => t.walker == .halted && ok t
    late (ordered { in3 .greet with debounced := 8 } .restart (recordOf 3 8 0)) (fun t => t.portState 3 == .seated) = true ∧
      late (ordered (in3 .held) .release (recordOf 5 8 0)) (fun t => t.portState 3 == .vacant) = true ∧
      late (ordered (in3 .latched) .delatch (recordOf 6 8 0)) (fun t => t.portState 3 == .awaitFar) = true ∧
      late (ordered (link3 .handed) .withdraw (recordOf 10 8 0)) (fun t => t.portState 3 == .qualified) = true ∧
      late (ordered running .watchSetup (recordOf 11 0 (2 * 2 ^ 256 + 3 * 2 ^ 264))) (fun t => t.watch.mode == .matching &&
        t.samplePeriod == 8) = true ∧
      late (ordered (scanning id [.skip] running) .scanStop (recordOf 14 0 0)) (fun t => t.scan.state == .idle) = true ∧
      late (ordered running .planPatch (recordOf 2 8 (2 ^ 256))) (fun t => t.plan != running.plan) = true := by decide +kernel

theorem test_PageItems_met :
    let s (dirty : PortMask) (mark last : Bool) (l : Option PortId) : State := { running with
      pageBase := 0x4000, page := { resetPage with dirty, headerMark := mark, lastWasHeader := last, lastPort := l } }
    let busy (i : PageItem) : State := { s 0 false false none with page := { resetPage with busy := some ⟨i, 0x4000⟩, headerVersion := 1 } }
    after .pageItemWrite running (· == running) = true ∧
      after .pageItemWrite (s 8 true false none) (fun t => t.page.busy == some ⟨.header, 0x4000⟩ && wrote t 0x4000 [1, 0, 0, 0] &&
        t.issued.length == 2 && !t.page.headerMark) = true ∧
      after .pageItemWrite (s 0x18 true true (some 3)) (fun t => t.page.busy == some ⟨.snapshot 4, 0x4000⟩ && wrote t 0x4140 [1, 0, 0, 0] &&
        t.page.dirty == 8) = true ∧
      after .pageItemWrite (s 0x18 false false (some 4)) (fun t => t.page.busy == some ⟨.snapshot 3, 0x4000⟩) = true ∧
      after .pageItemWrite (s 0 true true (some 3)) (fun t => t.page.busy == some ⟨.header, 0x4000⟩) = true ∧
      after .pageItemWrite (s 0 false true none) (· == s 0 false true none) = true ∧
      after .pageItemWriteDone (busy .header) (fun t => wrote t 0x4000 [2, 0, 0, 0] && t.page.lastWasHeader && t.page.busy == none) = true ∧
      after .pageItemWriteDone (busy (.snapshot 3)) (fun t => wrote t 0x4100 [1, 0, 0, 0] && t.page.lastPort == some 3) = true := by decide +kernel

/-- Bytes of a snapshot, the header and a report at chosen places (R190, R191, R193). -/
theorem test_layout_places :
    let s := (link3 .handed).updPort 3 fun x => { x with
      ctx := { x.ctx with armed := true, peer := some peer5, nbe := 0x1234, length := some 300 }
      meter := { x.meter with peerRecord := some ⟨0x0506, 8, true, false⟩, spread := some (-1) } }
    let snapshot (n : Nat) : Byte := ((s.ctx 3).snapshotFields 3).getD (n - 4) 0
    let report (n : Nat) : Byte := (s.reportBytes 3).getD n 0
    snapshot 4 = 0x23 ∧ snapshot 5 = 9 ∧ snapshot 32 = 2 ∧ snapshot 33 = 1 ∧ snapshot 34 = 5 ∧ snapshot 52 = 0x34 ∧ snapshot 53 = 0x12 ∧
      report 5 = 9 ∧ report 94 = 0xFF ∧ report 95 = 0xFF ∧ report 98 = 6 ∧ report 99 = 5 ∧ report 100 = 8 ∧ report 101 = 1 ∧
      s.headerFields.getD 0 0 = 3 ∧ s.headerFields.getD 30 0 = 255 := by decide +kernel

theorem test_snapshot_and_header_lengths :
    (((link3 .greet).ctx 3).snapshotFields 3).length = 60 ∧ running.headerFields.length = 60 := by decide +kernel

/-- A state that meets five of the kept properties, with port 3 in HANDED and a command waiting that steps. -/
theorem test_invariants_met :
    let s := (link3 .handed).updPort 3 fun x => { x with
      handover := true, ready := true, ctx := { x.ctx with heldExerciser := some 2 }, selectorCode := some 2 }
    let t : State := { s with anchor := 0x40, pending := [.nudge 0], walker := .fetching (.record 0x80) false }
    HandoverInv t ∧ ReadyInv t ∧ TransmitterInv t ∧ SelectorInv t ∧ AlignedInv t ∧
      (match step t with | .next u => u.pending == [] | _ => false) = true := by
  refine ⟨?_, ?_, ?_, ?_, ⟨?_, ?_, ?_, ?_⟩, ?_⟩
  · unfold HandoverInv; decide +kernel
  · unfold ReadyInv; decide +kernel
  · unfold TransmitterInv; decide +kernel
  · unfold SelectorInv; decide +kernel
  · unfold Aligned; decide +kernel
  · unfold Aligned; decide +kernel
  · decide +kernel
  · intro a h
    cases h
    unfold Aligned
    decide +kernel
  · decide +kernel

/-- A Pool with a holder, a port that asks and none that waits meets `PoolInv`; warm reset leaves it empty. -/
theorem test_PoolInv_met :
    let s : State := ((granted id).updCtx 4 fun c => { c with state := .exercise })
    let t : State := { s with pool := { s.pool with requests := [4] }, pending := [.exerciserGrant 4] }
    PoolInv t ∧ SelectorInv t ∧ (match step t with | .next u => u.pool.requests == [] | _ => false) = true ∧
      after (.warmReset false false false) t (fun u => u.pool.owners == Vector.replicate 4 none && u.pool.requests == [] &&
        (u.ctx 3).heldExerciser == none && (u.port 3).selectorCode == none) = true := by
  intro s t
  have owned : ∀ e : ExerciserId, ∀ g ∈ t.pool.owners[e], (t.ctx g.port).heldExerciser = some e := by decide +kernel
  have held : ∀ p : PortId, ∀ e ∈ (t.ctx p).heldExerciser, ∃ g ∈ t.pool.owners[e], g.port = p := by decide +kernel
  refine ⟨⟨owned, held, ?_, ?_, ?_, ?_, ?_⟩, ?_, ?_, ?_⟩
  · decide +kernel
  · decide +kernel
  · decide +kernel
  · decide +kernel
  · decide +kernel
  · unfold SelectorInv; decide +kernel
  · decide +kernel
  · decide +kernel

end Sys2Proof.Tests
end

section
/-! Frame lock (R75) and arrival marks (R80, R109 to R115). What a completed job leaves behind is said in three layers: the end of a check
changes one context alone (`ContextOnly`), a verdict and its transition keep the length and an ended check (`Moved`, `ScanOver`), and a
verdict on a length just stored is a verdict of the whole event (`LengthStored`). -/

namespace Sys2Proof.Machine.ServiceLane

variable {p : PortId} {s t u : State}

/-! ### Updates of one port -/

/-- Two updates of one port are one. -/
theorem updPort_updPort (f g : Port → Port) : (s.updPort p f).updPort p g = s.updPort p fun x => g (f x) := by
  simp [State.updPort, State.setPort, State.port]

/-- An update is what it does to the port as it stands. -/
theorem updPort_congr {f g : Port → Port} (h : f (s.port p) = g (s.port p)) : s.updPort p f = s.updPort p g := by
  unfold State.updPort
  rw [h]

theorem updPort_of_fixed {f : Port → Port} (h : f (s.port p) = s.port p) : s.updPort p f = s := by
  unfold State.updPort State.setPort
  rw [h]
  simp [State.port]

@[simp] theorem port_updMeter_same (f : Meter → Meter) :
    (s.updMeter p f).port p = { s.port p with meter := f (s.port p).meter } := port_updPort_same _ _ _

@[simp] theorem ctx_updMeter_same (f : Meter → Meter) : (s.updMeter p f).ctx p = s.ctx p := by simp [State.ctx]

@[simp] theorem updMeter_scan (f : Meter → Meter) : (s.updMeter p f).scan = s.scan := rfl

/-- The event changed the context of port `p` and nothing else of that port. -/
def ContextOnly (p : PortId) (s t : State) : Prop := t.port p = { s.port p with ctx := t.ctx p }

theorem ContextOnly.port (h : ContextOnly p s t) : t.port p = { s.port p with ctx := t.ctx p } := h

theorem ContextOnly.refl : ContextOnly p s s := rfl

theorem ContextOnly.trans (h : ContextOnly p s t) (k : ContextOnly p t u) : ContextOnly p s u := by
  unfold ContextOnly at *
  rw [k, h]

theorem ContextOnly.updCtx (h : ContextOnly p s t) (f : Context → Context) : ContextOnly p s (t.updCtx p f) := by
  refine h.trans ?_
  unfold ContextOnly
  rw [ctx_updCtx_same, port_updCtx_same]

theorem ContextOnly.setFlagIf (h : ContextOnly p s t) (b : Bool) (f : Flag) : ContextOnly p s (t.setFlagIf b p f) := by
  unfold State.setFlagIf
  split
  · exact h.updCtx _
  · exact h

theorem ContextOnly.meter (h : ContextOnly p s t) : (t.port p).meter = (s.port p).meter := by rw [h.port]

theorem ContextOnly.framer (h : ContextOnly p s t) : (t.port p).framer = (s.port p).framer := by rw [h.port]

theorem ContextOnly.channel (h : ContextOnly p s t) : (t.port p).channel = (s.port p).channel := by rw [h.port]

theorem judgeLeg_contextOnly : ContextOnly p s (s.judgeLeg p).1 := by
  have h := (ContextOnly.refl (p := p) (s := s)).setFlagIf (!(s.ctx p).cable.isValid) .mediaUnverified
  exact h.updCtx _

/-! ### The end of a check in flight -/

theorem setScan_ports (x : Scheduler) : (s.setScan x).ports = s.ports := by
  unfold State.setScan
  split <;> rfl

theorem scanDrainTest_ports : s.scanDrainTest.ports = s.ports := by
  unfold State.scanDrainTest
  split
  · exact setScan_ports _
  · rfl

theorem scanDrainTest_inFlight : s.scanDrainTest.scan.inFlight = s.scan.inFlight := by
  unfold State.scanDrainTest
  split
  · rw [setScan_scan]; rfl
  · rfl

theorem passComplete_ports : s.passComplete.ports = s.ports := by
  unfold State.passComplete
  dsimp only
  split
  · rw [setScan_ports, setSummary_ports, setScan_ports]
  · rw [setSummary_ports, setScan_ports]

theorem passComplete_inFlight : s.passComplete.scan.inFlight = s.scan.inFlight := by
  unfold State.passComplete
  dsimp only
  split
  · simp [setScan_scan, Scheduler.stopped]
  · simp [setScan_scan]

theorem advancePointer_ports : s.advancePointer.ports = s.ports := by
  unfold State.advancePointer
  split
  · rfl
  · split
    · exact setScan_ports _
    · exact passComplete_ports

theorem advancePointer_inFlight : s.advancePointer.scan.inFlight = s.scan.inFlight := by
  unfold State.advancePointer
  split
  · rfl
  · split
    · rw [setScan_scan]
    · exact passComplete_inFlight

/-- A check in flight on port `p` ends (R157 to R159): none is in flight, and the port's context alone takes its record. -/
theorem endCheck_recorded {c : InFlight} (hc : s.scan.inFlight = some c) (hp : c.port = p) (r : ScanResult) :
    (s.endCheck r).scan.inFlight = none ∧
      (s.endCheck r).port p = { s.port p with
        ctx := { s.ctx p with lastScanKind := some c.kind, scanResult := r, scanPass := c.pass } } := by
  subst hp
  unfold State.endCheck
  rw [hc]
  refine ⟨by rw [scanDrainTest_inFlight, advancePointer_inFlight], ?_⟩
  unfold State.port
  rw [scanDrainTest_ports, advancePointer_ports]
  exact port_updCtx_same _ _ _

theorem checking_of {c : InFlight} {k : ScanKind} (hc : s.scan.inFlight = some c) (hp : c.port = p) (hk : c.kind = k) :
    s.checking p k = true := by
  unfold State.checking
  rw [hc]
  simp [hp, hk]

/-- The end of a check of kind `k` on port `p`, where it is the one in flight. -/
theorem endCheckOn_recorded {c : InFlight} {k : ScanKind} (hc : s.scan.inFlight = some c) (hp : c.port = p) (hk : c.kind = k)
    (r : ScanResult) :
    (s.endCheckOn p k r).scan.inFlight = none ∧
      (s.endCheckOn p k r).port p = { s.port p with
        ctx := { s.ctx p with lastScanKind := some k, scanResult := r, scanPass := c.pass } } := by
  unfold State.endCheckOn
  rw [if_pos (checking_of hc hp hk), ← hk]
  exact endCheck_recorded hc hp r

/-- Whether or not it is in flight, the end of a check leaves the port but for the scan record in its context. -/
theorem endCheckOn_port (k : ScanKind) (r : ScanResult) :
    (s.endCheckOn p k r).port p = { s.port p with
      ctx := { s.ctx p with
        lastScanKind := ((s.endCheckOn p k r).ctx p).lastScanKind
        scanResult := ((s.endCheckOn p k r).ctx p).scanResult
        scanPass := ((s.endCheckOn p k r).ctx p).scanPass } } := by
  by_cases hk : s.checking p k = true
  · obtain ⟨c, hc⟩ : ∃ c, s.scan.inFlight = some c := by
      unfold State.checking at hk
      split at hk
      · next c hc => exact ⟨c, hc⟩
      · cases hk
    have hend : s.endCheckOn p k r = s.endCheck r := if_pos hk
    have hport := (endCheck_recorded hc (checking_port hk hc) r).2
    rw [hend]
    unfold State.ctx at *
    rw [hport]
  · have hend : s.endCheckOn p k r = s := if_neg hk
    rw [hend]
    rfl

theorem ContextOnly.endCheckOn (h : ContextOnly p s t) (k : ScanKind) (r : ScanResult) :
    ContextOnly p s (t.endCheckOn p k r) := by
  refine h.trans ?_
  have hport := endCheckOn_port (s := t) (p := p) k r
  unfold ContextOnly State.ctx at *
  rw [hport]

/-! ### A check that is over stays over -/

/-- What a context records of its last check (R159). -/
def scanRecord (c : Context) : Option ScanKind × ScanResult × Nat := (c.lastScanKind, c.scanResult, c.scanPass)

/-- No check is in flight, port `p` has no SCAN job, and its context shows record `x`. -/
structure ScanOver (p : PortId) (x : Option ScanKind × ScanResult × Nat) (t : State) : Prop where
  inFlight : t.scan.inFlight = none
  scanJob : (t.port p).meter.scanJob = none
  record : scanRecord (t.ctx p) = x

variable {x : Option ScanKind × ScanResult × Nat}

theorem ScanOver.updPort (h : ScanOver p x t) (f : Port → Port)
    (hm : (t.port p).meter.scanJob = none → (f (t.port p)).meter.scanJob = none)
    (hc : scanRecord (f (t.port p)).ctx = scanRecord (t.port p).ctx) : ScanOver p x (t.updPort p f) where
  inFlight := h.inFlight
  scanJob := by rw [port_updPort_same]; exact hm h.scanJob
  record := by unfold State.ctx; rw [port_updPort_same, hc]; exact h.record

theorem ScanOver.updMeter (h : ScanOver p x t) (f : Meter → Meter)
    (hm : (t.port p).meter.scanJob = none → (f (t.port p).meter).scanJob = none) : ScanOver p x (t.updMeter p f) :=
  h.updPort _ hm rfl

/-- What any event of another port leaves, where the Scheduler is left too. -/
theorem ScanOver.ofAny (h : ScanOver p x t) (k : ∀ r, PortEvent r t u) (hs : u.scan = t.scan) : ScanOver p x u where
  inFlight := by rw [hs]; exact h.inFlight
  scanJob := by
    have hg := (k (otherPort p)).2 p (ne_otherPort p)
    exact (congrArg (fun y => y.meter.scanJob) hg).trans h.scanJob
  record := by
    have hg := (k (otherPort p)).2 p (ne_otherPort p)
    exact (congrArg (fun y => scanRecord y.ctx) hg).trans h.record

theorem ScanOver.markDirty (h : ScanOver p x t) (q : PortId) : ScanOver p x (t.markDirty q) := ⟨h.inFlight, h.scanJob, h.record⟩

theorem ScanOver.updCtx (h : ScanOver p x t) (f : Context → Context)
    (hf : ∀ c, scanRecord (f c) = scanRecord c) : ScanOver p x (t.updCtx p f) where
  inFlight := by rw [updCtx_scan]; exact h.inFlight
  scanJob := by rw [port_updCtx_same]; exact h.scanJob
  record := by rw [ctx_updCtx_same, hf]; exact h.record

theorem setSelector_scan (q : PortId) (c : Option ExerciserId) : (s.setSelector q c).scan = s.scan := by
  unfold State.setSelector
  split <;> rfl

theorem grantExerciser_scan (e : ExerciserId) (q : PortId) : (s.grantExerciser e q).scan = s.scan := by
  simp [State.grantExerciser, State.setOwner, setSelector_scan]

theorem dropGrant_scan (e : ExerciserId) (q : PortId) : (s.dropGrant e q).scan = s.scan := by
  simp [State.dropGrant, State.setOwner, setSelector_scan]

theorem disposeExerciser_scan (e : ExerciserId) : (s.disposeExerciser e).scan = s.scan := by
  unfold State.disposeExerciser
  split
  · rfl
  · rw [grantExerciser_scan]; rfl

theorem giveBack_scan (q : PortId) : (s.giveBack q).scan = s.scan := by
  unfold State.giveBack
  split
  · rw [disposeExerciser_scan, dropGrant_scan]
  · unfold State.leaveWaitQueue
    dsimp only
    split <;> rfl

theorem leaveIdentity_scan (q : PortId) : (s.leaveIdentity q).scan = s.scan := by
  have hq : (if q ∈ s.reader.queue then s.setIdentityQueue (s.reader.queue.filter (· != q)) else s).scan = s.scan := by
    split <;> rfl
  unfold State.leaveIdentity
  dsimp only
  split
  · split <;> exact hq
  · exact hq

theorem ScanOver.meterClear (h : ScanOver p x t) : ScanOver p x (t.meterClear p) := by
  unfold State.meterClear
  rw [h.scanJob]
  exact h.updMeter _ fun _ => rfl

theorem ScanOver.turnOff (h : ScanOver p x t) : ScanOver p x (t.turnOff p) := (h.updPort _ id rfl).meterClear

theorem ScanOver.leave (h : ScanOver p x t) (st : PortState) : ScanOver p x (t.leave p st) := by
  have hoff : ScanOver p x (if t.portState p = .handed then t.updPort p Port.handoverOff else t) := by
    split
    · exact h.updPort _ id rfl
    · exact h
  have hback := (hoff.ofAny (fun _ => PortEvent.refl.giveBack p) (giveBack_scan p)).ofAny
    (fun _ => PortEvent.refl.leaveIdentity p) (leaveIdentity_scan p)
  have htx : ∀ u, ScanOver p x u → ScanOver p x (if (u.port p).framer.tx.isSome && !st.transmits then u.turnOff p else u) := by
    intro u hu
    split
    · exact hu.turnOff
    · exact hu
  have htimers := (htx _ hback).updPort (fun y => { y with timers := y.timers.left (t.portState p) st }) id rfl
  unfold State.leave
  exact htimers

theorem ScanOver.recordEntry (h : ScanOver p x t) (st : PortState) : ScanOver p x (t.recordEntry p st) := by
  have hport := (h.updPort (fun y => y.entered st t.ms) id rfl).markDirty p
  exact hport.ofAny (fun _ => PortEvent.refl.setSummary _) (setSummary_scan _ _)

theorem checkOnEntry_none (st : PortState) (h : s.scan.inFlight = none) : s.checkOnEntry p st = s := by
  unfold State.checkOnEntry
  rw [h]

@[simp] theorem idleIfNoJob_scanJob (m : Meter) : m.idleIfNoJob.scanJob = m.scanJob := by
  unfold Meter.idleIfNoJob
  split <;> rfl

@[simp] theorem idleIfNoJob_legJob (m : Meter) : m.idleIfNoJob.legJob = m.legJob := by
  unfold Meter.idleIfNoJob
  split <;> rfl

theorem endJobsOutside_scanJob (m : Meter) (st : PortState) : (m.endJobsOutside st).scanJob = m.scanJob := by
  unfold Meter.endJobsOutside
  simp only [idleIfNoJob_scanJob]
  split <;> split <;> split <;> rfl

/-- A LEG job ends outside RELAYING (R116). -/
theorem endJobsOutside_legJob (m : Meter) {st : PortState} (h : st ≠ .relaying) : (m.endJobsOutside st).legJob = none := by
  unfold Meter.endJobsOutside
  simp only [idleIfNoJob_legJob, if_neg h]
  split <;> rfl

theorem ScanOver.dropForwarded (h : ScanOver p x t) : ScanOver p x (t.dropForwarded p) := by
  unfold State.dropForwarded
  exact (h.updPort _ id rfl).updCtx _ fun _ => rfl

theorem ScanOver.enter (h : ScanOver p x t) (st : PortState) : ScanOver p x (t.enter p st) := by
  have hrec := (h.leave st).recordEntry st
  have hall : ScanOver p x ((((t.leave p st).recordEntry p st).checkOnEntry p st).updMeter p fun m => m.endJobsOutside st) := by
    rw [checkOnEntry_none st hrec.inFlight]
    exact hrec.updMeter _ fun hm => by rw [endJobsOutside_scanJob]; exact hm
  unfold State.enter
  dsimp only
  split
  · exact hall.dropForwarded
  · exact hall

theorem startJob_scanJob (m : Meter) {k : JobKind} (hk : k ≠ .scan) : (m.startJob k).scanJob = m.scanJob := by
  have hm : m.measuring.scanJob = m.scanJob := by
    unfold Meter.measuring
    split <;> rfl
  unfold Meter.startJob
  dsimp only
  rw [if_neg hk]
  cases k with
  | scan => exact absurd rfl hk
  | measure => exact hm
  | leg => exact hm
  | answer => exact hm

theorem endJob_scanJob (m : Meter) {k : JobKind} (hk : k ≠ .scan) : (m.endJob k).scanJob = m.scanJob := by
  unfold Meter.endJob
  rw [idleIfNoJob_scanJob]
  cases k with
  | scan => exact absurd rfl hk
  | measure => rfl
  | leg => rfl
  | answer => rfl

theorem ScanOver.startJob (h : ScanOver p x t) {k : JobKind} (hk : k ≠ .scan) : ScanOver p x (t.startJob p k) := by
  by_cases hl : (t.port p).framer.lock = .locked
  · rw [startJob_locked k hl]
    exact h.updMeter _ fun hm => by rw [startJob_scanJob _ hk]; exact hm
  · unfold State.startJob
    dsimp only
    rw [if_neg hl, if_neg hk]
    exact h.updMeter _ fun hm => by rw [endJob_scanJob _ hk]; exact hm

/-! ### What a verdict does to a port with lock -/

/-- The steps of a verdict of port `p` and of the transition that follows it, LISTEN and its clear (R11) left out. -/
inductive Moved (p : PortId) (s : State) : State → Prop
  | refl : Moved p s s
  | context {t : State} (f : Context → Context) (hlen : ∀ c, (f c).length = c.length)
      (hrec : ∀ c, scanRecord (f c) = scanRecord c) : Moved p s t → Moved p s (t.updCtx p f)
  | dirty {t : State} : Moved p s t → Moved p s (t.markDirty p)
  | enter {t : State} (st : PortState) : Moved p s t → Moved p s (t.enter p st)
  | timers {t : State} (f : Timers → Timers) : Moved p s t → Moved p s (t.updTimers p f)
  | job {t : State} (k : JobKind) (hk : k ≠ .scan) : Moved p s t → Moved p s (t.startJob p k)
  | pool {t : State} (y : Pool) : Moved p s t → Moved p s { t with pool := y }

/-- A verdict and its transition keep the length on which it was taken. -/
theorem Moved.length (h : Moved p s t) : (t.ctx p).length = (s.ctx p).length := by
  induction h with
  | refl => rfl
  | context f hlen _ _ ih => rw [ctx_updCtx_same, hlen]; exact ih
  | dirty _ ih => exact ih
  | enter st _ ih => exact (congrArg Context.length (ctx_enter st)).trans ih
  | timers f _ ih => unfold State.updTimers State.ctx; rw [port_updPort_same]; exact ih
  | job k _ _ ih => exact (congrArg Context.length (own_ctx (own_startJob k))).trans ih
  | pool y _ ih => exact ih

/-- A check that is over stays over through a verdict and its transition. -/
theorem Moved.scanOver (h : Moved p s t) (k : ScanOver p x s) : ScanOver p x t := by
  induction h with
  | refl => exact k
  | context f _ hrec _ ih => exact ih.updCtx f hrec
  | dirty _ ih => exact ih.markDirty p
  | enter st _ ih => exact ih.enter st
  | timers f _ ih => exact ih.updPort _ id rfl
  | job k hk _ ih => exact ih.startJob hk
  | pool y _ ih => exact ⟨ih.inFlight, ih.scanJob, ih.record⟩

theorem Moved.setFlagIf (h : Moved p s t) (b : Bool) (f : Flag) : Moved p s (t.setFlagIf b p f) := by
  unfold State.setFlagIf
  split
  · exact h.context _ (fun _ => rfl) fun _ => rfl
  · exact h

theorem Moved.recordVerdict (h : Moved p s t) (m : VerdictMask) : Moved p s (t.recordVerdict p m) :=
  (h.context (fun c => { c with lastVerdict := m.verdict, verdictMask := m }) (fun _ => rfl) fun _ => rfl).dirty

theorem judge_moved (n : Option Nat) : Moved p s (s.judge p n).1 := by
  have hflags : Moved p s (if (s.entry p).effective = .unplanned then s else s.flagUnverified p) := by
    split
    · exact .refl
    · exact Moved.refl.setFlagIf _ _
  unfold State.judge
  dsimp only
  rw [flagEpoch_eq]
  exact (hflags.setFlagIf _ _).recordVerdict _

theorem judgeLeg_moved : Moved p s (s.judgeLeg p).1 := (Moved.refl.setFlagIf _ _).recordVerdict _

theorem Moved.setStage (h : Moved p s t) (y : MiswiredStage) : Moved p s (t.setStage p y) :=
  h.context _ (fun _ => rfl) fun _ => rfl

theorem enterMiswired_of_locked (y : MiswiredStage) (h : (s.port p).framer.lock = .locked) :
    s.enterMiswired p y = (s.setStage p y).enter p .miswired := by
  unfold State.enterMiswired
  dsimp only
  refine if_pos ?_
  rw [framer_enter _ rfl, port_updCtx_same]
  exact h

/-- The transitions that a verdict of a port with lock leads to (R14, R24, R25, R49), DORMANT at a HANDED port with RUN 0 included (R32). -/
theorem Moved.goTo (h : Moved p s t) (hl : (t.port p).framer.lock = .locked) (y : Target)
    (hy : y = .measure ∨ y = .exercise ∨ y = .relaying ∨ ∃ stage, y = .miswired stage) : Moved p s (t.goTo p y) := by
  unfold State.goTo
  split
  · exact h.enter _
  · rcases hy with rfl | rfl | rfl | ⟨stage, rfl⟩
    · exact ((h.enter _).timers _).job _ (by decide)
    · exact (h.enter _).pool _
    · exact (h.enter _).job _ (by decide)
    · dsimp only
      rw [enterMiswired_of_locked _ hl]
      exact (h.setStage _).enter _

theorem legVerdict_moved (hl : (s.port p).framer.lock = .locked) : Moved p s (s.legVerdict p) := by
  have hm := judgeLeg_moved (s := s) (p := p)
  have hlock : ((s.judgeLeg p).1.port p).framer.lock = .locked := by rw [judgeLeg_framer]; exact hl
  unfold State.legVerdict
  dsimp only
  split
  · split
    · exact hm.goTo hlock _ (by simp)
    · exact hm.setStage _
  · split
    · exact hm
    · exact hm.goTo hlock _ (by simp)

theorem reVerdict_moved (hl : (s.port p).framer.lock = .locked) : Moved p s (s.reVerdict p) := by
  have hm := judge_moved (s := s) (p := p) (s.ctx p).length
  have hlock : ((s.judge p (s.ctx p).length).1.port p).framer.lock = .locked := by rw [judge_framer]; exact hl
  unfold State.reVerdict
  split
  · exact legVerdict_moved hl
  · dsimp only
    split
    · split
      · unfold State.resume
        split
        · exact hm.goTo hlock _ (by simp)
        · exact hm.goTo hlock _ (by simp)
        · exact hm
      · exact hm
    · split
      · exact hm.setStage _
      · exact hm.goTo hlock _ (by simp)

theorem lengthVerdict_moved (hl : (s.port p).framer.lock = .locked) : Moved p s (s.lengthVerdict p) := by
  have hm := judge_moved (s := s) (p := p) (s.ctx p).length
  have hlock : ((s.judge p (s.ctx p).length).1.port p).framer.lock = .locked := by rw [judge_framer]; exact hl
  unfold State.lengthVerdict
  dsimp only
  split
  · exact hm.goTo hlock _ (by simp)
  · exact hm.goTo hlock _ (by simp)

/-- A port that enters a state other than RELAYING has no LEG job (R116). -/
theorem enter_legJob {st : PortState} (h : st ≠ .relaying) : ((s.enter p st).port p).meter.legJob = none := by
  unfold State.enter
  dsimp only
  split
  · unfold State.dropForwarded
    dsimp only
    rw [port_updCtx_same, port_updPort_same, port_updMeter_same]
    exact endJobsOutside_legJob _ h
  · rw [port_updMeter_same]
    exact endJobsOutside_legJob _ h

/-- A leg verdict starts no LEG job at a leg in RELAYING. -/
theorem legVerdict_legJob (hs : s.portState p = .relaying) (hl : (s.port p).framer.lock = .locked)
    (hj : (s.port p).meter.legJob = none) : ((s.legVerdict p).port p).meter.legJob = none := by
  have hlock : ((s.judgeLeg p).1.port p).framer.lock = .locked := by rw [judgeLeg_framer]; exact hl
  have hst : (s.judgeLeg p).1.portState p = .relaying := by
    obtain ⟨_, hctx⟩ := judgeLeg_ctx (s := s) (p := p)
    unfold State.portState
    rw [hctx]
    exact hs
  unfold State.legVerdict
  dsimp only
  rw [if_neg (by rw [hst]; decide)]
  split
  · rw [judgeLeg_contextOnly.meter]
    exact hj
  · rw [goTo_of_running (.miswired .measure) (by rw [hst]; simp) _ (enterMiswired_of_locked _ hlock)]
    exact enter_legJob (by decide)

/-! ### A length stored -/

/-- A context without the items that a length computation and the end of a check write. -/
def withoutReport (c : Context) : Context :=
  { c with length := none, flags := 0, lastScanKind := none, scanResult := .none, scanPass := 0 }

/-- Port `p` has stored length `len`, and of what a verdict reads or a leg's messages concern nothing else is changed. -/
structure LengthStored (p : PortId) (len : Nat) (s u : State) : Prop where
  event : PortEvent p s u
  length : (u.ctx p).length = some len
  rest : withoutReport (u.ctx p) = withoutReport (s.ctx p)
  unverified : (u.ctx p).hasFlag .mediaUnverified = (s.ctx p).hasFlag .mediaUnverified
  epoch : (u.ctx p).hasFlag .epochDiffers = (s.ctx p).hasFlag .epochDiffers
  framer : (u.port p).framer = (s.port p).framer
  channel : (u.port p).channel = (s.port p).channel

theorem toNat_netRaw (r2 near far : Nat) : (netRaw r2 near far).toNat = r2 - (104 + near + far) := by
  unfold netRaw Config.transitHalfTicks
  omega

theorem lengthClamped_eq (n : Nat) : lengthClamped n = if n > 4095 then 4095 else n := by
  show min n 4095 = _
  split <;> omega

/-- The length computation in one equation: the meter takes R2 and N2, the context the length and up to three flags (R118, R119). -/
theorem storeLength_eq (own : Nat) (r : DelayRecord) : ∃ r2 n2 negative saturated disagrees, s.storeLength p own r =
    ((((s.updMeter p fun m => { m with lastR2 := some r2, lastN2 := some n2 }).setFlagIf negative p .delayNegative).setFlagIf
      saturated p .lengthSat).updCtx p fun c => { c with length := some (s.lengthOf p own r) }).setFlagIf
        disagrees p .lengthDisagrees := by
  have hlen : lengthClamped (lengthRaw (netRaw (roundTrip own r.l2) (s.entry p).trim r.trim).toNat (s.ctx p).cable.propagation) =
      s.lengthOf p own r := by
    rw [toNat_netRaw, lengthClamped_eq]
    unfold lengthRaw roundTrip Config.cycleHalfTicks State.lengthOf CableIdentity.propagation
    cases (s.ctx p).cable <;> rfl
  rw [← hlen]
  exact ⟨_, _, _, _, _, rfl⟩

theorem setFlagIf_withoutReport (b : Bool) (f : Flag) :
    withoutReport ((s.setFlagIf b p f).ctx p) = withoutReport (s.ctx p) := by
  rw [ctx_setFlagIf]
  rfl

theorem setFlagIf_length (b : Bool) (f : Flag) : ((s.setFlagIf b p f).ctx p).length = (s.ctx p).length := by
  rw [ctx_setFlagIf]

theorem hasFlag_setFlagIf_ne (b : Bool) {f g : Flag} (h : (f == g) = false) :
    ((s.setFlagIf b p f).ctx p).hasFlag g = (s.ctx p).hasFlag g := by
  rw [hasFlag_setFlagIf, h, Bool.and_false, Bool.or_false]

theorem storeLength_stored (own : Nat) (r : DelayRecord) : LengthStored p (s.lengthOf p own r) s (s.storeLength p own r) := by
  have hevent := (PortEvent.refl (p := p) (s := s)).storeLength own r
  obtain ⟨r2, n2, negative, saturated, disagrees, h⟩ := storeLength_eq (s := s) (p := p) own r
  generalize hv : (s.updMeter p fun m => { m with lastR2 := some r2, lastN2 := some n2 }) = v at h
  have hvctx : v.ctx p = s.ctx p := by rw [← hv, ctx_updMeter_same]
  have honly : ContextOnly p v (s.storeLength p own r) := by
    rw [h]
    exact (((ContextOnly.refl.setFlagIf _ _).setFlagIf _ _).updCtx _).setFlagIf _ _
  have hflag : ∀ g : Flag, (Flag.delayNegative == g) = false → (Flag.lengthSat == g) = false → (Flag.lengthDisagrees == g) = false →
      ((s.storeLength p own r).ctx p).hasFlag g = (s.ctx p).hasFlag g := by
    intro g h1 h2 h3
    rw [h, hasFlag_setFlagIf_ne _ h3, ctx_updCtx_same, ← hvctx, ← hasFlag_setFlagIf_ne negative h1,
      ← hasFlag_setFlagIf_ne saturated h2]
    rfl
  refine ⟨hevent, ?_, ?_, hflag _ rfl rfl rfl, hflag _ rfl rfl rfl, ?_, ?_⟩
  · rw [h, setFlagIf_length, ctx_updCtx_same]
  · rw [h, setFlagIf_withoutReport, ctx_updCtx_same, ← hvctx, ← setFlagIf_withoutReport negative .delayNegative,
      ← setFlagIf_withoutReport saturated .lengthSat]
    rfl
  · rw [honly.framer, ← hv, port_updMeter_same]
  · rw [honly.channel, ← hv, port_updMeter_same]

/-- What the meter did before the length was stored does not show in it. -/
theorem LengthStored.afterMeter {len : Nat} {f : Meter → Meter} (h : LengthStored p len (s.updMeter p f) u) :
    LengthStored p len s u where
  event := (PortEvent.refl.updMeter f).trans h.event
  length := h.length
  rest := h.rest.trans (by rw [ctx_updMeter_same])
  unverified := h.unverified.trans (by rw [ctx_updMeter_same])
  epoch := h.epoch.trans (by rw [ctx_updMeter_same])
  framer := h.framer.trans (by rw [port_updMeter_same])
  channel := h.channel.trans (by rw [port_updMeter_same])

theorem endCheckOn_ctx (k : ScanKind) (r : ScanResult) :
    (s.endCheckOn p k r).ctx p = { s.ctx p with
      lastScanKind := ((s.endCheckOn p k r).ctx p).lastScanKind
      scanResult := ((s.endCheckOn p k r).ctx p).scanResult
      scanPass := ((s.endCheckOn p k r).ctx p).scanPass } := congrArg Port.ctx (endCheckOn_port k r)

/-- The report to the Scheduler that follows the length leaves it stored. -/
theorem LengthStored.endCheckOn {len : Nat} (h : LengthStored p len s u) (k : ScanKind) (r : ScanResult) :
    LengthStored p len s (u.endCheckOn p k r) where
  event := h.event.endCheckOn k r
  length := by rw [endCheckOn_ctx]; exact h.length
  rest := by rw [endCheckOn_ctx]; exact h.rest
  unverified := by rw [endCheckOn_ctx]; exact h.unverified
  epoch := by rw [endCheckOn_ctx]; exact h.epoch
  framer := (ContextOnly.refl.endCheckOn k r).framer.trans h.framer
  channel := (ContextOnly.refl.endCheckOn k r).channel.trans h.channel

variable {len : Nat}

theorem LengthStored.portState (h : LengthStored p len s u) : u.portState p = s.portState p :=
  (congrArg Context.state h.rest :)
theorem LengthStored.cable (h : LengthStored p len s u) : (u.ctx p).cable = (s.ctx p).cable :=
  (congrArg Context.cable h.rest :)
theorem LengthStored.peer (h : LengthStored p len s u) : (u.ctx p).peer = (s.ctx p).peer :=
  (congrArg Context.peer h.rest :)
theorem LengthStored.stage (h : LengthStored p len s u) : (u.ctx p).miswiredStage = (s.ctx p).miswiredStage :=
  (congrArg Context.miswiredStage h.rest :)
theorem LengthStored.relayDrops (h : LengthStored p len s u) : (u.ctx p).relayDrops = (s.ctx p).relayDrops :=
  (congrArg Context.relayDrops h.rest :)
theorem LengthStored.entry (h : LengthStored p len s u) : u.entry p = s.entry p := by
  unfold State.entry
  rw [h.event.1.plan]

/-! ### A verdict on a stored length -/

/-- The checks read the cable and the peer alone. -/
theorem checked_sameData {e : Entry} {c d : Context} {n : Option Nat} {m : VerdictMask} (h : Checked e c n m)
    (hcable : d.cable = c.cable) (hpeer : d.peer = c.peer) : Checked e d n m := by
  obtain ⟨h1, h2, h3, h4⟩ := h
  refine ⟨h1, ?_, ?_, h4⟩
  · rw [hpeer]; exact h2
  · unfold CableFails at *; rw [hcable, hpeer]; exact h3

theorem legChecked_sameData {e : Entry} {c d : Context} {m : VerdictMask} (h : LegChecked e c m)
    (hcable : d.cable = c.cable) (hlen : d.length = c.length) : LegChecked e d m := by
  obtain ⟨h1, h2, h3, h4⟩ := h
  refine ⟨h1, h2, ?_, ?_⟩
  · unfold CableFails at *; rw [hcable]; exact h3
  · rw [hlen]; exact h4

/-- A verdict taken after the length was stored is one of the event that stored it. -/
theorem LengthStored.verdictTaken (h : LengthStored p len s u) {c d : Context} {m : VerdictMask} {leg : Bool}
    (hv : VerdictTaken p c m leg u t) (hcable : d.cable = c.cable) (hpeer : d.peer = c.peer) :
    VerdictTaken p d m leg s t := by
  refine ⟨hv.verdict, hv.mask, ?_, ?_, hv.dirty⟩
  · rw [hcable, ← h.unverified]; exact hv.unverified
  · rw [hpeer, ← h.epoch, ← h.event.1.plan]; exact hv.epoch

theorem LengthStored.verdictLeaves (h : LengthStored p len s u) (leg failed : Bool) :
    u.verdictLeaves p leg failed = s.verdictLeaves p leg failed := by
  unfold State.verdictLeaves
  rw [h.portState, h.event.1.run, h.framer, h.stage]

theorem LengthStored.legMessages (h : LengthStored p len s u) (k : LegMessages p u t) : LegMessages p s t := by
  obtain ⟨hleaves, hstays⟩ := k
  rw [h.portState, h.channel, h.relayDrops] at hleaves hstays
  exact ⟨hleaves, hstays⟩

/-- A re-verdict on the state with the length stored is a re-verdict on the data with that length (R115). -/
theorem LengthStored.reVerdict (h : LengthStored p len s u) :
    ReVerdict p { s.ctx p with length := some len } s (u.reVerdict p) := by
  obtain ⟨⟨m, hcheck, hverdict, hleaves, hstage⟩, hmessages⟩ := reVerdict_taken (s := u) (p := p)
  have hcable := h.cable.symm
  have hpeer := h.peer.symm
  have hlen := h.length.symm
  refine ⟨⟨m, ?_, ?_, ?_, ?_⟩, h.legMessages hmessages⟩
  · rw [h.portState, h.entry] at hcheck
    split at hcheck
    · next hleg => rw [if_pos hleg]; exact legChecked_sameData hcheck hcable hlen
    · next hleg =>
      rw [if_neg hleg]
      rw [h.length] at hcheck
      exact checked_sameData hcheck hcable hpeer
  · rw [h.portState, h.entry] at hverdict
    exact h.verdictTaken hverdict hcable hpeer
  · rw [h.portState, h.entry, h.verdictLeaves] at hleaves
    exact hleaves
  · rw [h.portState, h.entry] at hstage
    exact hstage

/-- The length verdict of a port in MEASURE with lock: what it finds, what it records, where it leads (R14). -/
theorem lengthVerdict_taken (hs : s.portState p = .measure) (hl : (s.port p).framer.lock = .locked) :
    ∃ m, Checked (s.entry p) (s.ctx p) (s.ctx p).length m ∧ VerdictTaken p (s.ctx p) m false s (s.lengthVerdict p) ∧
      (m.failed = true → (s.lengthVerdict p).portState p = .miswired ∧ ((s.lengthVerdict p).ctx p).miswiredStage = .measure) ∧
      (m.failed = false → (s.lengthVerdict p).portState p = .exercise ∧ p ∈ (s.lengthVerdict p).pool.requests) := by
  obtain ⟨hcheck, hverdict⟩ := judge_taken (s := s) (p := p) (s.ctx p).length
  obtain ⟨hst, _⟩ := judge_port (s := s) (p := p) (s.ctx p).length
  have hlock : ((s.judge p (s.ctx p).length).1.port p).framer.lock = .locked := by rw [judge_framer]; exact hl
  unfold State.lengthVerdict
  generalize s.judge p (s.ctx p).length = j at hcheck hverdict hst hlock ⊢
  obtain ⟨v, m⟩ := j
  dsimp only at hcheck hverdict hst hlock ⊢
  have hgoes : (!v.run && v.portState p == .handed) = false := by rw [hst, hs]; simp
  refine ⟨m, hcheck, ?_, fun hm => ?_, fun hm => ?_⟩
  · split <;> exact hverdict.thenGoTo _
  · rw [if_neg (verdict_ne_of_failed hm), goTo_of_running (.miswired .measure) hgoes _ rfl]
    exact enterMiswired_locked _ hlock
  · rw [if_pos (m.verdict_matched_iff.mpr hm), goTo_of_running .exercise hgoes _ rfl]
    exact ⟨enterExercise_state, List.mem_append_right _ (List.mem_singleton_self p)⟩

/-! ### Faults -/

/-- Code and state of a retryable fault (R26, R140). -/
theorem fault_outcome (c : FaultCode) :
    ((s.fault p c).ctx p).lastFault = c ∧ (s.fault p c).portState p = s.faultState p :=
  ⟨(congrArg Context.lastFault (fault_taken c).context :), (fault_taken c).entered.state⟩

theorem faultState_updPort {f : Port → Port} (h : (f (s.port p)).ctx = (s.port p).ctx) :
    (s.updPort p f).faultState p = s.faultState p := by
  have hctx : (s.updPort p f).ctx p = s.ctx p := by
    unfold State.ctx
    rw [port_updPort_same, h]
  unfold State.faultState State.portState
  rw [hctx, updPort_entry, updPort_run]

/-! ### Jobs complete -/

/-- The meter as a LEG job, a SCAN job, or both end. -/
def jobsEnded (leg scan : Bool) (m : Meter) : Meter :=
  let m := if leg then m.endJob .leg else m
  if scan then m.endJob .scan else m

theorem ended_legJob (scan : Bool) (m : Meter) : (jobsEnded true scan m).legJob = none := by
  cases scan <;> simp [jobsEnded, Meter.endJob, Meter.setJob]

theorem ended_scanJob (leg : Bool) (m : Meter) : (jobsEnded leg true m).scanJob = none := by
  cases leg <;> simp [jobsEnded, Meter.endJob, Meter.setJob]

/-- The report of a completed SCAN job to the Scheduler (R162), where there is one. -/
def reportIf (s : State) (scan : Bool) (p : PortId) (r : ScanResult) : State :=
  if scan then s.endCheckOn p .delay r else s

theorem completeOthers_eq (leg scan : Bool) {own : Nat} {r : DelayRecord} (hown : (s.port p).meter.ownL2 = some own)
    (hrec : (s.port p).meter.peerRecord = some r) :
    s.completeOthers p leg scan =
      if r.unstable then reportIf (s.updMeter p (jobsEnded leg scan)) scan p .unstable
      else (reportIf ((s.updMeter p (jobsEnded leg scan)).storeLength p own r) scan p .length).reVerdict p := by
  have hv : (s.updMeter p fun m => if leg then m.endJob .leg else m).updMeter p (fun m => if scan then m.endJob .scan else m) =
      s.updMeter p (jobsEnded leg scan) := updPort_updPort _ _
  unfold State.completeOthers
  simp only [hown, hrec, hv]
  rfl

/-- The report of a SCAN job leaves the port but for the scan record in its context. -/
theorem reportIf_port (scan : Bool) (r : ScanResult) :
    (reportIf s scan p r).port p = { s.port p with
      ctx := { s.ctx p with
        lastScanKind := ((reportIf s scan p r).ctx p).lastScanKind
        scanResult := ((reportIf s scan p r).ctx p).scanResult
        scanPass := ((reportIf s scan p r).ctx p).scanPass } } := by
  cases scan
  · rfl
  · exact endCheckOn_port .delay r

theorem reportIf_ctx (scan : Bool) (r : ScanResult) :
    (reportIf s scan p r).ctx p = { s.ctx p with
      lastScanKind := ((reportIf s scan p r).ctx p).lastScanKind
      scanResult := ((reportIf s scan p r).ctx p).scanResult
      scanPass := ((reportIf s scan p r).ctx p).scanPass } := congrArg Port.ctx (reportIf_port scan r)

theorem reportIf_contextOnly (scan : Bool) (r : ScanResult) : ContextOnly p s (reportIf s scan p r) := by
  unfold ContextOnly
  rw [reportIf_ctx]
  exact reportIf_port scan r

theorem reportIf_keeps (scan : Bool) (r : ScanResult) :
    (reportIf s scan p r).portState p = s.portState p ∧
      ((reportIf s scan p r).ctx p).length = (s.ctx p).length ∧
      ((reportIf s scan p r).ctx p).lastVerdict = (s.ctx p).lastVerdict := by
  unfold State.portState
  rw [reportIf_ctx]
  exact ⟨rfl, rfl, rfl⟩

/-- The report of a SCAN job whose DELAY check is in flight ends the check. -/
theorem reportIf_ended {c : InFlight} (hc : s.scan.inFlight = some c) (hp : c.port = p) (hk : c.kind = .delay) (r : ScanResult) :
    (reportIf s true p r).scan.inFlight = none ∧
      (reportIf s true p r).ctx p = { s.ctx p with lastScanKind := some .delay, scanResult := r, scanPass := c.pass } := by
  obtain ⟨hnone, hport⟩ := endCheckOn_recorded hc hp hk r
  exact ⟨hnone, (congrArg Port.ctx hport :)⟩

/-- With the SCAN job gone its report leaves the check over. -/
theorem reportIf_over {c : InFlight} (hc : s.scan.inFlight = some c) (hp : c.port = p) (hk : c.kind = .delay)
    (hjob : (s.port p).meter.scanJob = none) (r : ScanResult) :
    ScanOver p (some .delay, r, c.pass) (reportIf s true p r) := by
  obtain ⟨hnone, hctx⟩ := reportIf_ended hc hp hk r
  refine ⟨hnone, by rw [(reportIf_contextOnly true r).meter]; exact hjob, ?_⟩
  rw [hctx]
  rfl

theorem LengthStored.reportIf (h : LengthStored p len s u) (scan : Bool) (r : ScanResult) :
    LengthStored p len s (reportIf u scan p r) := by
  cases scan
  · exact h
  · exact h.endCheckOn _ _

/-- A length computation touches no job and no check. -/
theorem storeLength_keepsJobs (own : Nat) (r : DelayRecord) :
    ((s.storeLength p own r).port p).meter.legJob = (s.port p).meter.legJob ∧
      ((s.storeLength p own r).port p).meter.scanJob = (s.port p).meter.scanJob ∧
      (s.storeLength p own r).scan = s.scan := by
  obtain ⟨r2, n2, negative, saturated, disagrees, h⟩ := storeLength_eq (s := s) (p := p) own r
  have honly := (((ContextOnly.refl.setFlagIf negative .delayNegative).setFlagIf saturated .lengthSat).updCtx
    (fun c => { c with length := some (s.lengthOf p own r) })).setFlagIf (p := p)
    (s := s.updMeter p fun m => { m with lastR2 := some r2, lastN2 := some n2 }) disagrees .lengthDisagrees
  have hscan : ∀ (v : State) (b : Bool) (f : Flag), (v.setFlagIf b p f).scan = v.scan := by
    intro v b f
    unfold State.setFlagIf State.setFlag
    split
    · exact updCtx_scan _ _ _
    · rfl
  rw [h]
  refine ⟨by rw [honly.meter, port_updMeter_same], by rw [honly.meter, port_updMeter_same], ?_⟩
  rw [hscan, updCtx_scan, hscan, hscan, updMeter_scan]

/-- LEG and SCAN jobs that complete on a stable record: the length is stored, reported and judged in that order (R115, log 21). -/
theorem completeOthers_judges (leg scan : Bool) {own : Nat} {r : DelayRecord} (hown : (s.port p).meter.ownL2 = some own)
    (hrec : (s.port p).meter.peerRecord = some r) (hr : r.unstable = false) :
    let u := reportIf ((s.updMeter p (jobsEnded leg scan)).storeLength p own r) scan p .length
    s.completeOthers p leg scan = u.reVerdict p ∧ LengthStored p (s.lengthOf p own r) s u ∧
      (u.port p).meter.legJob = (jobsEnded leg scan (s.port p).meter).legJob := by
  intro u
  have hv := storeLength_stored (s := s.updMeter p (jobsEnded leg scan)) (p := p) own r
  have hlen : (s.updMeter p (jobsEnded leg scan)).lengthOf p own r = s.lengthOf p own r := by
    unfold State.lengthOf
    rw [ctx_updMeter_same]
    rfl
  rw [hlen] at hv
  refine ⟨?_, hv.afterMeter.reportIf scan .length, ?_⟩
  · rw [completeOthers_eq leg scan hown hrec, hr]
    exact if_neg Bool.false_ne_true
  · rw [(reportIf_contextOnly scan .length).meter, (storeLength_keepsJobs own r).1, port_updMeter_same]

/-- LEG and SCAN jobs that complete on an unstable record end with the report alone (R115, R162). -/
theorem completeOthers_unstable (leg scan : Bool) {own : Nat} {r : DelayRecord} (hown : (s.port p).meter.ownL2 = some own)
    (hrec : (s.port p).meter.peerRecord = some r) (hr : r.unstable = true) :
    s.completeOthers p leg scan = reportIf (s.updMeter p (jobsEnded leg scan)) scan p .unstable := by
  rw [completeOthers_eq leg scan hown hrec, if_pos hr]

theorem completeOthers_unstable_keeps (leg scan : Bool) {own : Nat} {r : DelayRecord}
    (hown : (s.port p).meter.ownL2 = some own) (hrec : (s.port p).meter.peerRecord = some r) (hr : r.unstable = true) :
    (s.completeOthers p leg scan).portState p = s.portState p ∧
      ((s.completeOthers p leg scan).ctx p).length = (s.ctx p).length ∧
      ((s.completeOthers p leg scan).ctx p).lastVerdict = (s.ctx p).lastVerdict := by
  have h := reportIf_keeps (s := s.updMeter p (jobsEnded leg scan)) (p := p) scan .unstable
  rw [completeOthers_unstable leg scan hown hrec hr]
  unfold State.portState at *
  rw [ctx_updMeter_same] at h
  exact h

/-- Of a completed LEG or SCAN job on a stable record: the length, and the re-verdict on it. -/
theorem completeOthers_length (leg scan : Bool) {own : Nat} {r : DelayRecord} (hl : (s.port p).framer.lock = .locked)
    (hown : (s.port p).meter.ownL2 = some own) (hrec : (s.port p).meter.peerRecord = some r) (hr : r.unstable = false) :
    ((s.completeOthers p leg scan).ctx p).length = some (s.lengthOf p own r) ∧
      ReVerdict p { s.ctx p with length := some (s.lengthOf p own r) } s (s.completeOthers p leg scan) := by
  obtain ⟨heq, hstored, _⟩ := completeOthers_judges leg scan hown hrec hr
  have hlock := (congrArg Framer.lock hstored.framer).trans hl
  rw [heq]
  exact ⟨(reVerdict_moved hlock).length.trans hstored.length, hstored.reVerdict⟩

/-- A LEG job that completes in RELAYING is gone. -/
theorem completeOthers_legJob (scan : Bool) {own : Nat} {r : DelayRecord} (hl : (s.port p).framer.lock = .locked)
    (hown : (s.port p).meter.ownL2 = some own) (hrec : (s.port p).meter.peerRecord = some r)
    (hs : s.portState p = .relaying) : ((s.completeOthers p true scan).port p).meter.legJob = none := by
  cases hr : r.unstable
  · obtain ⟨heq, hstored, hjob⟩ := completeOthers_judges true scan hown hrec hr
    have hst := hstored.portState.trans hs
    rw [heq]
    unfold State.reVerdict
    rw [if_pos (.inl hst)]
    exact legVerdict_legJob hst ((congrArg Framer.lock hstored.framer).trans hl) (hjob.trans (ended_legJob _ _))
  · rw [completeOthers_unstable true scan hown hrec hr, (reportIf_contextOnly scan .unstable).meter, port_updMeter_same]
    exact ended_legJob _ _

/-- A SCAN job that completes ends its check, whatever the verdict on the length then does (R159, R162). -/
theorem completeOthers_over (leg : Bool) {own : Nat} {r : DelayRecord} {c : InFlight} (hl : (s.port p).framer.lock = .locked)
    (hown : (s.port p).meter.ownL2 = some own) (hrec : (s.port p).meter.peerRecord = some r)
    (hc : s.scan.inFlight = some c) (hp : c.port = p) (hk : c.kind = .delay) :
    ScanOver p (some .delay, if r.unstable then .unstable else .length, c.pass) (s.completeOthers p leg true) := by
  have hgone : ((s.updMeter p (jobsEnded leg true)).port p).meter.scanJob = none := by
    rw [port_updMeter_same]
    exact ended_scanJob _ _
  cases hr : r.unstable
  · obtain ⟨heq, hstored, _⟩ := completeOthers_judges leg true hown hrec hr
    obtain ⟨_, hjob, hscan⟩ := storeLength_keepsJobs (s := s.updMeter p (jobsEnded leg true)) (p := p) own r
    rw [heq]
    refine (reVerdict_moved ((congrArg Framer.lock hstored.framer).trans hl)).scanOver ?_
    exact reportIf_over (by rw [hscan]; exact hc) hp hk (hjob.trans hgone) .length
  · rw [completeOthers_unstable leg true hown hrec hr]
    exact reportIf_over (s := s.updMeter p (jobsEnded leg true)) hc hp hk hgone .unstable

/-- A MEASURE job that completes (R115): an unstable record faults, else the length is stored and judged (R14). -/
theorem completeMeasure_taken {own : Nat} {r : DelayRecord} (hl : (s.port p).framer.lock = .locked)
    (hown : (s.port p).meter.ownL2 = some own) (hrec : (s.port p).meter.peerRecord = some r) (hs : s.portState p = .measure) :
    let t := s.completeMeasure p
    (r.unstable = true → (t.ctx p).lastFault = .delayUnstable ∧ t.portState p = s.faultState p) ∧
    (r.unstable = false → (t.ctx p).length = some (s.lengthOf p own r) ∧
      ∃ m, Checked (s.entry p) (s.ctx p) (some (s.lengthOf p own r)) m ∧ VerdictTaken p (s.ctx p) m false s t ∧
        (m.failed = true → t.portState p = .miswired ∧ (t.ctx p).miswiredStage = .measure) ∧
        (m.failed = false → t.portState p = .exercise ∧ p ∈ t.pool.requests)) := by
  intro t
  have heq : t = if r.unstable then s.fault p .delayUnstable
      else ((s.updMeter p fun m => m.endJob .measure).storeLength p own r).lengthVerdict p := by
    show s.completeMeasure p = _
    unfold State.completeMeasure
    simp only [hown, hrec]
  refine ⟨fun hr => ?_, fun hr => ?_⟩
  · rw [heq, if_pos hr]
    exact fault_outcome _
  · have hstored : LengthStored p (s.lengthOf p own r) s ((s.updMeter p fun m => m.endJob .measure).storeLength p own r) := by
      have hv := storeLength_stored (s := s.updMeter p fun m => m.endJob .measure) (p := p) own r
      unfold State.lengthOf at hv
      rw [ctx_updMeter_same] at hv
      exact hv.afterMeter
    rw [heq, if_neg (by rw [hr]; decide)]
    have hlock := (congrArg Framer.lock hstored.framer).trans hl
    obtain ⟨m, hcheck, hverdict, hfail, hpass⟩ := lengthVerdict_taken (hstored.portState.trans hs) hlock
    rw [hstored.entry, hstored.length] at hcheck
    exact ⟨(lengthVerdict_moved hlock).length.trans hstored.length, m,
      checked_sameData hcheck hstored.cable.symm hstored.peer.symm,
      hstored.verdictTaken hverdict hstored.cable.symm hstored.peer.symm, hfail, hpass⟩

theorem completeJobs_others (hm : (s.port p).meter.measureJob = none)
    (hj : jobComplete (s.port p).meter.legJob = true ∨ scanComplete (s.port p).meter.scanJob = true) :
    s.completeJobs p =
      s.completeOthers p (jobComplete (s.port p).meter.legJob) (scanComplete (s.port p).meter.scanJob) := by
  unfold State.completeJobs
  dsimp only
  rw [hm, if_neg (show ¬ jobComplete none = true from Bool.false_ne_true), if_pos (by rw [Bool.or_eq_true]; exact hj)]

/-- The jobs that have all their marks complete (R111, R115, R162). -/
theorem completeJobs_completed : JobsCompleted p s (s.completeJobs p) where
  event := PortEvent.refl.completeJobs
  unmarked hm hleg hscan := by
    unfold State.completeJobs
    simp [hm, hleg, hscan]
  measure own r hl hown hrec hj hs := by
    have heq : s.completeJobs p = s.completeMeasure p := if_pos hj
    rw [heq]
    exact completeMeasure_taken hl hown hrec hs
  leg own r hl hown hrec hm hj hs := by
    rw [completeJobs_others hm (.inl hj), hj]
    refine ⟨completeOthers_legJob _ hl hown hrec hs, fun hr => ?_, completeOthers_length _ _ hl hown hrec⟩
    rw [← hs]
    exact completeOthers_unstable_keeps _ _ hown hrec hr
  scan own r c hl hown hrec hm hj hc hp hk _ := by
    rw [completeJobs_others hm (.inr hj), hj]
    obtain ⟨hnone, hjob, hshown⟩ := completeOthers_over (jobComplete (s.port p).meter.legJob) hl hown hrec hc hp hk
    refine ⟨hnone, hjob, congrArg (·.1) hshown, congrArg (·.2.2) hshown, fun hr => ?_, fun hr => ?_⟩
    · rw [hr] at hshown
      exact ⟨congrArg (·.2.1) hshown, completeOthers_unstable_keeps _ _ hown hrec hr⟩
    · rw [hr] at hshown
      exact ⟨congrArg (·.2.1) hshown, completeOthers_length _ _ hl hown hrec hr⟩

theorem completeJobs_completed_of_eq (h : u = s) : JobsCompleted p s (u.completeJobs p) := by
  subst h
  exact completeJobs_completed

/-! ### The pair -/

section Pair

variable {lp lm d : Nat} (hlp : lp < 2816) (hlm : lm < 2816) (hd : d = (lm + 2816 - lp) % 2816)
include hlp hlm hd

/-- The spread in natural numbers: the gap from the first arrival to the second, read as signed (R110). -/
theorem pairSpread_eq : pairSpread lp lm = if d < 1408 then (d : Int) else (d : Int) - 2816 := by
  have hgap : ((lm : Int) - lp) % 2816 = d := by omega
  unfold pairSpread
  rw [hgap]
  dsimp only
  split <;> split <;> omega

theorem pairStable_iff : pairStable (pairSpread lp lm) = true ↔ d ≤ 16 ∨ 2800 ≤ d := by
  rw [pairSpread_eq hlp hlm hd]
  unfold pairStable
  rw [Bool.and_eq_true, decide_eq_true_iff, decide_eq_true_iff]
  split <;> omega

theorem pairL2_eq (h : d ≤ 16 ∨ 2800 ≤ d) :
    pairL2 lp (pairSpread lp lm) = if d ≤ 16 then (2 * lp + d) % 5632 else (2 * lp + d + 2816) % 5632 := by
  rw [pairSpread_eq hlp hlm hd]
  unfold pairL2
  split <;> split <;> omega

end Pair

/-! ### The end of a measurement -/

/-- The port at the end of a stable measurement: own L2, the measured marks, the ANSWER job done, the DELAY queued (R110, R112, R114). -/
def stableEnd (l2 : Nat) (delay : Message) (x : Port) : Port :=
  { x with
    meter := { x.meter with
      phase := .idle, pairNumber := none, ownL2 := some l2
      measureJob := markMeasured x.meter.measureJob, legJob := markMeasured x.meter.legJob
      scanJob := markMeasured x.meter.scanJob, answerJob := none }
    channel := { x.channel with queue := enqueueMessage x.channel.queue delay } }

theorem measurementStable_eq (l2 : Nat) : s.measurementStable p l2 =
    s.updPort p (stableEnd l2 (measurementDelay (s.port p).meter l2 (s.delayCheckNumbers p))) := by
  unfold State.measurementStable State.updMeter State.queueMessage
  rw [updPort_updPort]
  rfl

/-- A message queued where `b` says so, as one update. -/
theorem queueIf_eq (b : Bool) (m : Message) :
    (if b then s.queueMessage p m else s) = s.updPort p fun x => { x with
      channel := { x.channel with queue := if b then enqueueMessage x.channel.queue m else x.channel.queue } } := by
  cases b
  · exact (updPort_of_fixed rfl).symm
  · rfl

/-- A measurement that ends unstable with a MEASURE job taking part faults (R111). -/
theorem measurementUnstable_faults (h : takesPart (s.port p).meter.measureJob = true) :
    ((s.measurementUnstable p).ctx p).lastFault = .delayUnstable ∧ (s.measurementUnstable p).portState p = s.faultState p := by
  have heq : s.measurementUnstable p = (s.updMeter p Meter.toIdle).fault p .delayUnstable := if_pos h
  have hstate : (s.updMeter p Meter.toIdle).faultState p = s.faultState p := faultState_updPort rfl
  rw [heq, ← hstate]
  exact fault_outcome _

/-- The port at the end of an unstable measurement with no MEASURE job taking part: LEG, SCAN and ANSWER jobs end, and the UNSTABLE
DELAY is queued for them (R111). -/
def unstableEnd (x : Port) : Port :=
  { x with
    meter := { x.meter with
      phase := .idle, pairNumber := none
      legJob := if takesPart x.meter.legJob then none else x.meter.legJob
      scanJob := if takesPart x.meter.scanJob then none else x.meter.scanJob
      answerJob := none }
    channel := { x.channel with
      queue := if takesPart x.meter.legJob || takesPart x.meter.scanJob || takesPart x.meter.answerJob then
          enqueueMessage x.channel.queue unstableDelay
        else x.channel.queue } }

theorem measurementUnstable_eq (h : takesPart (s.port p).meter.measureJob = false) :
    s.measurementUnstable p = reportIf (s.updPort p unstableEnd) (takesPart (s.port p).meter.scanJob) p .unstable := by
  unfold State.measurementUnstable
  dsimp only
  rw [h, if_neg Bool.false_ne_true, queueIf_eq]
  unfold reportIf State.updMeter
  rw [updPort_updPort, updPort_updPort]
  rfl

/-! ### The arrival -/

/-- The port with the mark that was due taken (R80). -/
def markTaken (x : Port) : Port := { x with framer := { x.framer with markDue := false } }

theorem exec_arrivalMark_due (lm : Fin 2816) (h : (s.port p).framer.markDue = true) :
    exec (.arrivalMark p lm) s = .next ((s.updPort p markTaken).meterTakes p lm.val) := by
  show execArrivalMark p lm s = _
  unfold execArrivalMark
  rw [if_pos h]
  rfl

theorem exec_arrivalMark_none (lm : Fin 2816) (h : (s.port p).framer.markDue = false) :
    exec (.arrivalMark p lm) s = .next s := by
  show execArrivalMark p lm s = _
  unfold execArrivalMark
  rw [h]
  exact if_neg Bool.false_ne_true

theorem meterTakes_idle {n : Nat}
    (h : (s.port p).meter.phase = .idle ∨ (s.port p).meter.phase = .minus ∧ (s.port p).meter.lp = none) :
    s.meterTakes p n = s := by
  unfold State.meterTakes
  rcases h with h | ⟨h, hlp⟩
  · simp only [h]
  · simp only [h, hlp]

theorem meterTakes_plus {n : Nat} (h : (s.port p).meter.phase = .plus) :
    s.meterTakes p n = s.updMeter p fun m => { m with lp := some n, phase := .minus, biasMinus := true } := by
  unfold State.meterTakes
  simp only [h]

theorem meterTakes_minus {n lp : Nat} (h : (s.port p).meter.phase = .minus) (hlp : (s.port p).meter.lp = some lp) :
    s.meterTakes p n = s.pairTaken p lp n := by
  unfold State.meterTakes
  simp only [h, hlp]

/-- The meter with the second arrival of a pair and its spread (R110). -/
def pairNoted (lp lm : Nat) (m : Meter) : Meter := { m with lm := some lm, spread := some (pairSpread lp lm) }

/-- The port with the mark taken as the second arrival of a pair. -/
def secondArrival (lp lm : Nat) (x : Port) : Port := { markTaken x with meter := pairNoted lp lm x.meter }

theorem updMeter_markTaken (lp lm : Nat) :
    (s.updPort p markTaken).updMeter p (pairNoted lp lm) = s.updPort p (secondArrival lp lm) := updPort_updPort _ _

theorem pairTaken_stable {lp lm : Nat} (h : pairStable (pairSpread lp lm) = true) :
    s.pairTaken p lp lm =
      ((s.updMeter p (pairNoted lp lm)).measurementStable p (pairL2 lp (pairSpread lp lm))).completeJobs p := by
  unfold State.pairTaken
  exact if_pos h

theorem pairTaken_next {lp lm n : Nat} (h : ¬ pairStable (pairSpread lp lm) = true) (hn : (s.port p).meter.pairNumber = some n)
    (h3 : n < 3) : s.pairTaken p lp lm = (s.updMeter p (pairNoted lp lm)).updMeter p fun m => m.beginPair (n + 1) := by
  unfold State.pairTaken
  rw [hn]
  exact (if_neg h).trans (if_pos h3)

theorem pairTaken_third {lp lm n : Nat} (h : ¬ pairStable (pairSpread lp lm) = true) (hn : (s.port p).meter.pairNumber = some n)
    (h3 : 3 ≤ n) : s.pairTaken p lp lm = (s.updMeter p (pairNoted lp lm)).measurementUnstable p := by
  unfold State.pairTaken
  rw [hn]
  exact (if_neg h).trans (if_neg (Nat.not_lt.mpr h3))

/-- Settles O29: what an arrival mark does in each phase of the meter, and at the end of a pair by its spread. -/
theorem arrivalMark : Obligations.ArrivalMark := by
  refine ⟨fun s p lm h => exec_arrivalMark_none lm h, fun s p lm hdue => ?_⟩
  refine ⟨_, exec_arrivalMark_due lm hdue, (PortEvent.refl.updPort _).meterTakes _, fun h => ?_, fun h => ?_, ?_⟩
  · rw [meterTakes_idle (by rw [port_updPort_same]; exact h)]
    rfl
  · rw [meterTakes_plus (by rw [port_updPort_same]; exact h)]
    exact updPort_updPort _ _
  · intro lp n hphase hlp hrange hn d spread stable m partOf measured
    have htakes : (s.updPort p markTaken).meterTakes p lm.val = (s.updPort p markTaken).pairTaken p lp lm.val :=
      meterTakes_minus (by rw [port_updPort_same]; exact hphase) (by rw [port_updPort_same]; exact hlp)
    have hnum : ((s.updPort p markTaken).port p).meter.pairNumber = some n := by rw [port_updPort_same]; exact hn
    have hspread : spread = pairSpread lp lm.val := (pairSpread_eq hrange lm.isLt rfl).symm
    have hstable : pairStable (pairSpread lp lm.val) = true ↔ stable := pairStable_iff hrange lm.isLt rfl
    have hpart : takesPart ((s.updPort p (secondArrival lp lm.val)).port p).meter.measureJob = partOf m.measureJob := by
      rw [port_updPort_same]
      rfl
    rw [htakes, hspread]
    refine ⟨fun hst => ?_, fun hst h3 => ?_, fun hst h3 hm => ?_, fun hst h3 hm => ?_⟩
    · intro l2 purposes answer
      have hl2 : pairL2 lp (pairSpread lp lm.val) = l2 := pairL2_eq hrange lm.isLt rfl hst
      rw [pairTaken_stable (hstable.mpr hst), hl2, updMeter_markTaken]
      refine completeJobs_completed_of_eq ?_
      rw [measurementStable_eq, updPort_updPort, port_updPort_same]
      exact updPort_congr rfl
    · rw [pairTaken_next (mt hstable.mp hst) hnum h3, updMeter_markTaken]
      exact (updPort_updPort _ _).trans (updPort_congr rfl)
    · have hfault : (s.updPort p (secondArrival lp lm.val)).faultState p = s.faultState p := faultState_updPort rfl
      rw [pairTaken_third (mt hstable.mp hst) hnum h3, updMeter_markTaken, ← hfault]
      exact measurementUnstable_faults (hpart.trans hm)
    · intro answerOnly
      rw [pairTaken_third (mt hstable.mp hst) hnum h3, updMeter_markTaken, measurementUnstable_eq (hpart.trans hm),
        updPort_updPort, port_updPort_same]
      refine ⟨?_, ?_, fun c hscan hc hp hk => ?_⟩
      · refine (reportIf_ctx _ _).trans ?_
        unfold State.ctx
        rw [port_updPort_same]
        rfl
      · refine (reportIf_contextOnly _ _).port.trans ?_
        rw [port_updPort_same]
        rfl
      · have hreports : takesPart (secondArrival lp lm.val (s.port p)).meter.scanJob = true := hscan
        rw [hreports]
        obtain ⟨hnone, hctx⟩ := reportIf_ended
          (s := s.updPort p fun x => unstableEnd (secondArrival lp lm.val x)) hc hp hk .unstable
        rw [hctx]
        exact ⟨hnone, rfl, rfl, rfl⟩

/-! ### Frame lock -/

theorem exec_frameLock (p : PortId) (b : BitVec 52) (s : State) : exec (.frameLock p b) s = execFrameLock p b s := rfl

theorem isSync_iff (b : Byte) : isSync b = true ↔ b = 0xB8 ∨ b = 0x47 := by
  unfold isSync
  rw [Bool.or_eq_true, beq_iff_eq, beq_iff_eq]

/-- The search finds its three sync words exactly when the groups that end 0, 22 and 44 bits back are sync words (R75). -/
theorem threeSyncs_iff (b : BitVec 52) : threeSyncs b = true ↔ ∀ i : Fin 3, isSync (b.extractLsb' (22 * i.val) 8) = true := by
  unfold threeSyncs
  simp only [Bool.and_eq_true]
  refine ⟨fun ⟨⟨h2, h1⟩, h0⟩ i => ?_, fun h => ⟨⟨h 2, h 1⟩, h 0⟩⟩
  match i with
  | 0 => exact h0
  | 1 => exact h1
  | 2 => exact h2

/-- Settles O21: three sync words in SEARCH take frame lock, and nothing else changes the state. -/
theorem frameLock : Obligations.FrameLock := by
  refine ⟨fun s p b hsearch hsync => ?_, fun s p b hnot => ?_⟩
  · have hthree : threeSyncs b = true := (threeSyncs_iff b).mpr fun i => (isSync_iff _).mpr (hsync i)
    rw [exec_frameLock, execFrameLock, if_pos ⟨hsearch, hthree⟩]
    rfl
  · have hmiss : ¬ ((s.port p).framer.lock = .search ∧ threeSyncs b = true) := by
      rintro ⟨hsearch, hthree⟩
      rcases hnot with hlock | ⟨i, hB8, h47⟩
      · exact hlock hsearch
      · rcases (isSync_iff _).mp ((threeSyncs_iff b).mp hthree i) with e | e
        · exact hB8 e
        · exact h47 e
    rw [exec_frameLock, execFrameLock, if_neg hmiss]

end Sys2Proof.Machine.ServiceLane
end

section
/-! The Message Channel: the merge rule of its queue (R89), a HELLO on a relay leg (R102, R103), and a message that fails after its fourth
attempt (R94, R95, R112, R161, R162). A failed message ends the scan check that waits for it before it can fault the port, so what the
check leaves behind and the relay drop count are followed through the fault by the steps of which every fault is made (`FaultSteps`). -/

namespace Sys2Proof.Machine.MessageChannel

open ServiceLane

variable {p q : PortId} {s t u : State}

/-! ### The merge rule (R89) -/

/-- Which of the two types a message is of. -/
def isHello (m : Message) : Bool :=
  match m.body with
  | .hello _ _ => true
  | .delay _ _ _ => false

theorem sameType_iff (a b : Message) : a.sameType b = true ↔ isHello a = isHello b := by
  unfold Message.sameType isHello
  cases a.body <;> cases b.body <;> simp

/-- With no message of its type waiting, a message joins at the tail. -/
theorem enqueueMessage_tail {before : List Message} {new : Message} (h : ∀ m ∈ before, isHello m ≠ isHello new) :
    enqueueMessage before new = before ++ [new] := by
  induction before with
  | nil => rfl
  | cons x xs ih =>
    have hx : ¬ x.sameType new = true := mt (sameType_iff x new).mp (h x List.mem_cons_self)
    rw [enqueueMessage, if_neg hx, ih fun m hm => h m (List.mem_cons_of_mem _ hm)]
    rfl

/-- The first message of its type that waits is replaced in its place. -/
theorem enqueueMessage_merge {before : List Message} {old new : Message} (after : List Message)
    (h : ∀ m ∈ before, isHello m ≠ isHello new) (hold : isHello old = isHello new) :
    enqueueMessage (before ++ old :: after) new = before ++ mergeMessage old new :: after := by
  induction before with
  | nil => exact if_pos ((sameType_iff old new).mpr hold)
  | cons x xs ih =>
    have hx : ¬ x.sameType new = true := mt (sameType_iff x new).mp (h x List.mem_cons_self)
    rw [List.cons_append, enqueueMessage, if_neg hx, ih fun m hm => h m (List.mem_cons_of_mem _ hm)]
    rfl

/-! ### A HELLO on a relay leg (R102, R103) -/

/-- A HELLO that ends no PEER check goes to the partner or is dropped. -/
theorem helloReceived_relaying {i : PeerIdentity} {rr : Bool} (hs : s.portState p = .relaying)
    (hcheck : rr = false → s.scan.inFlight = none) : s.helloReceived p i rr = s.forwardHello p i rr := by
  have hkeep : (if rr then s else s.endCheckOn p .peer .replied) = s := by
    cases rr with
    | true => rfl
    | false =>
      have hnone : s.checking p .peer = false := by rw [State.checking, hcheck rfl]
      rw [State.endCheckOn, hnone]
      rfl
  unfold State.helloReceived
  dsimp only
  rw [hkeep, hs]

theorem forwardHello_queues {i : PeerIdentity} {rr : Bool} (hq : s.partner p = some q) (hi : i.hops.toNat < 3)
    (hs : s.portState q = .relaying) :
    s.forwardHello p i rr =
      s.queueMessage q { body := .hello (.forwarded { i with hops := i.hops + 1 }) rr,
                         purposes := { noPurposes with relay := true } } := by
  unfold State.forwardHello
  rw [hq]
  exact if_pos ⟨hi, hs⟩

theorem forwardHello_drops {i : PeerIdentity} {rr : Bool} (hq : s.partner p = some q)
    (h : i.hops.toNat = 3 ∨ s.portState q ≠ .relaying) : s.forwardHello p i rr = s.countDrop p := by
  unfold State.forwardHello
  rw [hq]
  refine if_neg fun ⟨hi, hs⟩ => ?_
  rcases h with h | h
  · omega
  · exact h hs

/-- Settles O25: the merge rule, and what a leg in RELAYING does with a HELLO. -/
theorem relayForwards : Obligations.RelayForwards := by
  refine ⟨fun before after old new hbefore => ⟨enqueueMessage_tail hbefore, fun hold => ?_⟩, ?_⟩
  · refine ⟨mergeMessage old new, enqueueMessage_merge after hbefore hold, rfl, ?_, ?_⟩
    · intro _ _ _ _ ho hn
      rw [mergeMessage, ho, hn]
      rfl
    · intro _ _ _ _ _ _ ho hn
      rw [mergeMessage, ho, hn]
      rfl
  · intro s p q i rr hs hq hcheck
    rw [helloReceived_relaying hs hcheck]
    exact ⟨fun hi hq' => forwardHello_queues hq hi hq', fun h => forwardHello_drops hq h⟩

/-! ### The steps of a fault -/

/-- What a fault leaves in a context: the flags (R146), the last check's record (R159) and the relay drop count (R103). -/
def keptByFault (c : Context) : BitVec 15 × (Option ScanKind × ScanResult × Nat) × Nat := (c.flags, scanRecord c, c.relayDrops)

/-- An update of a port that a fault may make: it keeps what a fault keeps, and starts no SCAN job. -/
structure FaultUpdate (f : Port → Port) : Prop where
  context : ∀ x, keptByFault (f x).ctx = keptByFault x.ctx
  scanJob : ∀ x, x.meter.scanJob = none → (f x).meter.scanJob = none

/-- The steps that make up a fault of port `p`: updates of the port that keep what a fault keeps, events of no port in particular that leave
the Scheduler, and the end of the check in flight. -/
inductive FaultSteps (p : PortId) (s : State) : State → Prop
  | refl : FaultSteps p s s
  | port {t : State} (f : Port → Port) (hf : FaultUpdate f) : FaultSteps p s t → FaultSteps p s (t.updPort p f)
  | any {t u : State} (k : ∀ r, PortEvent r t u) (hscan : u.scan = t.scan) : FaultSteps p s t → FaultSteps p s u
  | check {t : State} (r : ScanResult) : FaultSteps p s t → FaultSteps p s (t.endCheck r)

theorem FaultSteps.relayDrops (h : FaultSteps p s t) : (t.ctx p).relayDrops = (s.ctx p).relayDrops := by
  induction h with
  | refl => rfl
  | port f hf _ ih =>
    unfold State.ctx at *
    rw [port_updPort_same]
    exact (congrArg (·.2.2) (hf.context _)).trans ih
  | any k _ _ ih => exact (relayPart_drops (relayPart_of_any k p)).trans ih
  | check r _ ih => exact (relayPart_drops (relayPart_endCheck r)).trans ih

theorem endCheck_none (r : ScanResult) (h : s.scan.inFlight = none) : s.endCheck r = s := by
  unfold State.endCheck
  rw [h]

/-- From `s` to `t` a check of port `p` that is over stays over: none is in flight, the context keeps what a fault keeps, and no SCAN job
starts. -/
structure CheckStaysOver (p : PortId) (s t : State) : Prop where
  inFlight : t.scan.inFlight = none
  kept : keptByFault (t.ctx p) = keptByFault (s.ctx p)
  scanJob : (s.port p).meter.scanJob = none → (t.port p).meter.scanJob = none

theorem FaultSteps.checkStaysOver (h : FaultSteps p s t) (hnone : s.scan.inFlight = none) : CheckStaysOver p s t := by
  induction h with
  | refl => exact ⟨hnone, rfl, id⟩
  | port f hf _ ih =>
    refine ⟨ih.inFlight, ?_, fun hjob => ?_⟩
    · unfold State.ctx at *
      rw [port_updPort_same]
      exact (hf.context _).trans ih.kept
    · rw [port_updPort_same]
      exact hf.scanJob _ (ih.scanJob hjob)
  | any k hscan _ ih =>
    have hgrant := (k (otherPort p)).2 p (ne_otherPort p)
    exact ⟨by rw [hscan]; exact ih.inFlight, (congrArg (fun y => keptByFault y.ctx) hgrant).trans ih.kept,
      fun hjob => (congrArg (fun y => y.meter.scanJob) hgrant).trans (ih.scanJob hjob)⟩
  | check r _ ih => rwa [endCheck_none r ih.inFlight]

theorem FaultSteps.markDirty (h : FaultSteps p s t) : FaultSteps p s (t.markDirty q) :=
  h.any (fun _ => PortEvent.refl.markDirty q) rfl

theorem FaultSteps.updMeter (h : FaultSteps p s t) (f : Meter → Meter) (hf : ∀ m, m.scanJob = none → (f m).scanJob = none) :
    FaultSteps p s (t.updMeter p f) := h.port _ ⟨fun _ => rfl, fun x => hf x.meter⟩

theorem FaultSteps.updTimers (h : FaultSteps p s t) (f : Timers → Timers) : FaultSteps p s (t.updTimers p f) :=
  h.port _ ⟨fun _ => rfl, fun _ => id⟩

theorem FaultSteps.updCtx (h : FaultSteps p s t) (f : Context → Context) (hf : ∀ c, keptByFault (f c) = keptByFault c) :
    FaultSteps p s (t.updCtx p f) := by
  unfold State.updCtx
  split
  · exact h
  · exact (h.port (fun x => { x with ctx := f x.ctx }) ⟨fun x => hf x.ctx, fun _ => id⟩).markDirty

theorem FaultSteps.endCheckOn (h : FaultSteps p s t) (k : ScanKind) (r : ScanResult) : FaultSteps p s (t.endCheckOn p k r) := by
  unfold State.endCheckOn
  split
  · exact h.check r
  · exact h

theorem FaultSteps.turnOff (h : FaultSteps p s t) : FaultSteps p s (t.turnOff p) := by
  have hoff := (h.port (fun x => { x with framer := resetFramer, channel := resetChannel, onState := ⟨0, 0, false⟩ })
    ⟨fun _ => rfl, fun _ => id⟩).updMeter Meter.cleared fun _ _ => rfl
  unfold State.turnOff State.meterClear
  dsimp only
  split
  · exact hoff.endCheckOn _ _
  · exact hoff

theorem FaultSteps.leave (h : FaultSteps p s t) (st : PortState) : FaultSteps p s (t.leave p st) := by
  have hhandover : FaultSteps p s (if t.portState p = .handed then t.updPort p Port.handoverOff else t) := by
    split
    · exact h.port _ ⟨fun _ => rfl, fun _ => id⟩
    · exact h
  have hback := (hhandover.any (fun _ => PortEvent.refl.giveBack p) (giveBack_scan p)).any
    (fun _ => PortEvent.refl.leaveIdentity p) (leaveIdentity_scan p)
  have hoff : ∀ u, FaultSteps p s u →
      FaultSteps p s (if (u.port p).framer.tx.isSome && !st.transmits then u.turnOff p else u) := by
    intro u hu
    split
    · exact hu.turnOff
    · exact hu
  have htimers := (hoff _ hback).port (fun x => { x with timers := x.timers.left (t.portState p) st })
    ⟨fun _ => rfl, fun _ => id⟩
  unfold State.leave
  exact htimers

theorem FaultSteps.recordEntry (h : FaultSteps p s t) (st : PortState) : FaultSteps p s (t.recordEntry p st) :=
  have hentered := h.port (fun x => x.entered st t.ms) ⟨fun _ => rfl, fun _ => id⟩
  hentered.markDirty.any (fun _ => PortEvent.refl.setSummary _) (setSummary_scan _ _)

theorem endJob_scan (m : Meter) : (m.endJob .scan).scanJob = none := by
  unfold Meter.endJob
  rw [idleIfNoJob_scanJob]
  rfl

theorem FaultSteps.checkOnEntry (h : FaultSteps p s t) (st : PortState) : FaultSteps p s (t.checkOnEntry p st) := by
  unfold State.checkOnEntry
  split
  · exact h
  · split
    · exact h
    · split
      · split
        · exact h.check _
        · split
          · exact h
          · exact h.check _
      · split
        · exact h
        · exact h.check _
      · split
        · exact h
        · exact (h.updMeter _ fun m _ => endJob_scan m).check _
      · exact h.check _

/-- An entry to MISWIRED alone touches the relay drop count (R105), and no fault leads there. -/
theorem FaultSteps.enter (h : FaultSteps p s t) (st : PortState) (hst : st ≠ .miswired) : FaultSteps p s (t.enter p st) := by
  have hall := (((h.leave st).recordEntry st).checkOnEntry st).updMeter (fun m => m.endJobsOutside st)
    fun m hm => (endJobsOutside_scanJob m st).trans hm
  unfold State.enter
  dsimp only
  rw [if_neg fun hmis => hst hmis.2]
  exact hall

theorem FaultSteps.enterRetryWait (h : FaultSteps p s t) : FaultSteps p s (t.enterRetryWait p) := by
  unfold State.enterRetryWait
  exact (h.enter _ (by decide)).updTimers _

theorem FaultSteps.goTo (h : FaultSteps p s t) {x : Target} (hx : x = .plain .dormant ∨ x = .plain .latched ∨ x = .retryWait) :
    FaultSteps p s (t.goTo p x) := by
  unfold State.goTo
  split
  · exact h.enter _ (by decide)
  · rcases hx with rfl | rfl | rfl
    · exact h.enter _ (by decide)
    · exact h.enter _ (by decide)
    · exact h.enterRetryWait

theorem FaultSteps.retryDecision (h : FaultSteps p s t) : FaultSteps p s (t.retryDecision p) := by
  have hfull := h.updCtx (fun c => { c with retryFull := c.retryFull || t.fillsRetry p }) fun _ => rfl
  unfold State.retryDecision
  dsimp only
  split
  · exact hfull.goTo (.inr (.inl rfl))
  · exact hfull.goTo (.inr (.inr rfl))

theorem fault_steps (code : FaultCode) : FaultSteps p s (s.fault p code) := by
  have hcode : FaultSteps p s (s.updCtx p fun c => { c with lastFault := code }) := FaultSteps.refl.updCtx _ fun _ => rfl
  unfold State.fault
  dsimp only
  split
  · exact hcode.goTo (.inl rfl)
  · exact hcode.retryDecision

/-! ### The scan check that waits for a message (R161, R162) -/

/-- The context after a check of kind `k` in pass `n` has gone unanswered (R159, R161, R162). -/
def unanswered (k : ScanKind) (n : Nat) (c : Context) : Context :=
  { c with flags := c.flags ||| Flag.peerNoReply.mask, lastScanKind := some k, scanResult := .noReply, scanPass := n }

theorem unanswered_hasFlag (k : ScanKind) (n : Nat) (c : Context) : (unanswered k n c).hasFlag .peerNoReply = true := by
  unfold unanswered Context.hasFlag
  rw [BitVec.getLsbD_or]
  simp [Flag.mask, Flag.index]

theorem endUnanswered_recorded {c : InFlight} (hc : s.scan.inFlight = some c) (hp : c.port = p) :
    (s.endUnanswered p c.kind).scan.inFlight = none ∧
      (s.endUnanswered p c.kind).port p = { s.port p with ctx := unanswered c.kind c.pass (s.ctx p) } := by
  have heq : s.endUnanswered p c.kind = (s.setFlag p .peerNoReply).endCheck .noReply := if_pos (checking_of hc hp rfl)
  have hflag : (s.setFlag p .peerNoReply).scan.inFlight = some c := by rw [State.setFlag, updCtx_scan]; exact hc
  obtain ⟨hnone, hport⟩ := endCheck_recorded hflag hp .noReply
  rw [heq, hport, State.setFlag, ctx_updCtx_same, port_updCtx_same]
  exact ⟨hnone, rfl⟩

/-- The meter as the check of kind `k` ends: a DELAY check takes its SCAN job with it (R162). -/
def checkEndsJob (k : ScanKind) (m : Meter) : Meter := if k = .delay then m.endJob .scan else m

theorem checkEndsJob_legJob (k : ScanKind) (m : Meter) : (checkEndsJob k m).legJob = m.legJob := by
  unfold checkEndsJob Meter.endJob
  split
  · rw [idleIfNoJob_legJob]; rfl
  · rfl

/-- A check in flight that is among the purposes of the failed message ends. -/
theorem scanMessageFailed_ends {c : InFlight} {m : Message} (hc : s.scan.inFlight = some c) (hp : c.port = p)
    (hm : c.number ∈ m.purposes.scan) :
    (s.scanMessageFailed p m).scan.inFlight = none ∧
      (s.scanMessageFailed p m).port p = { s.port p with
        meter := checkEndsJob c.kind (s.port p).meter, ctx := unanswered c.kind c.pass (s.ctx p) } := by
  unfold State.scanMessageFailed checkEndsJob
  rw [hc]
  dsimp only
  rw [if_pos ⟨hp, hm⟩]
  by_cases hk : c.kind = .delay
  · have h := endUnanswered_recorded (s := s.updMeter p fun x => x.endJob .scan) hc hp
    rw [if_pos hk, if_pos hk]
    rwa [port_updMeter_same, ctx_updMeter_same] at h
  · rw [if_neg hk, if_neg hk]
    exact endUnanswered_recorded hc hp

theorem scanMessageFailed_other {m : Message}
    (h : ∀ c, s.scan.inFlight = some c → c.port = p → c.number ∉ m.purposes.scan) : s.scanMessageFailed p m = s := by
  unfold State.scanMessageFailed
  split
  · next c hc => exact if_neg fun ⟨hp, hm⟩ => h c hc hp hm
  · rfl

/-- Whichever check ends, the decision that a fault makes and the relay drop count rest on items that stay. -/
theorem scanMessageFailed_keeps (m : Message) :
    (s.scanMessageFailed p m).portState p = s.portState p ∧
      ((s.scanMessageFailed p m).ctx p).retryCounter = (s.ctx p).retryCounter ∧
      ((s.scanMessageFailed p m).ctx p).relayDrops = (s.ctx p).relayDrops := by
  by_cases h : ∃ c, s.scan.inFlight = some c ∧ c.port = p ∧ c.number ∈ m.purposes.scan
  · obtain ⟨c, hc, hp, hm⟩ := h
    have hport := (scanMessageFailed_ends hc hp hm).2
    unfold State.portState State.ctx at *
    rw [hport]
    exact ⟨rfl, rfl, rfl⟩
  · rw [scanMessageFailed_other fun c hc hp hm => h ⟨c, hc, hp, hm⟩]
    exact ⟨rfl, rfl, rfl⟩

/-! ### A failed message (R95, R112) -/

theorem countDropIf_eq (b : Bool) :
    (if b then s.countDrop p else s) =
      s.updCtx p fun c => { c with relayDrops := if b then satInc 65535 c.relayDrops else c.relayDrops } := by
  cases b with
  | true => rfl
  | false => exact (if_pos rfl).symm

theorem countDropIf_ctx (b : Bool) :
    (if b then s.countDrop p else s).ctx p =
      { s.ctx p with relayDrops := if b then satInc 65535 (s.ctx p).relayDrops else (s.ctx p).relayDrops } := by
  rw [countDropIf_eq, ctx_updCtx_same]

/-- The state as the message of port `p` has failed, before the fault it may lead to: the drop counted, the check and the LEG job ended. -/
def failureNoted (s : State) (p : PortId) (m : Message) : State :=
  ((if m.purposes.relay then s.countDrop p else s).scanMessageFailed p m).updMeter p (endLegOf m.purposes.measurement)

theorem failureNoted_event (m : Message) : PortEvent p s (failureNoted s p m) :=
  ((PortEvent.ite PortEvent.refl.countDrop PortEvent.refl).scanMessageFailed m).updMeter _

theorem failureNoted_keeps (m : Message) :
    (failureNoted s p m).portState p = s.portState p ∧
      ((failureNoted s p m).ctx p).retryCounter = (s.ctx p).retryCounter ∧
      ((failureNoted s p m).ctx p).relayDrops =
        if m.purposes.relay then satInc 65535 (s.ctx p).relayDrops else (s.ctx p).relayDrops := by
  have h := scanMessageFailed_keeps (s := if m.purposes.relay then s.countDrop p else s) (p := p) m
  unfold failureNoted State.portState at *
  rw [ctx_updMeter_same]
  rwa [countDropIf_ctx] at h

/-- A fault after the failure has been noted leads where it would have led before. -/
theorem failureNoted_faultState (m : Message) : (failureNoted s p m).faultState p = s.faultState p := by
  obtain ⟨hstate, hcounter, _⟩ := failureNoted_keeps (s := s) (p := p) m
  have hhost := (failureNoted_event (s := s) (p := p) m).1
  unfold State.faultState State.entry
  rw [hstate, hcounter, hhost.run, hhost.plan]

theorem endLegOf_legJob {ms : List Nat} (h : ms ≠ []) (m : Meter) : (endLegOf ms m).legJob = none := by
  unfold endLegOf
  cases hj : m.legJob with
  | none => simpa using hj
  | some j =>
    rw [if_pos ⟨h, rfl⟩, Meter.endJob, idleIfNoJob_legJob]
    rfl

theorem endLegOf_scanJob (ms : List Nat) (m : Meter) : (endLegOf ms m).scanJob = m.scanJob := by
  unfold endLegOf
  split
  · exact endJob_scanJob m (by decide)
  · rfl

theorem failureNoted_legJob {m : Message} (h : m.purposes.measurement ≠ []) :
    ((failureNoted s p m).port p).meter.legJob = none := by
  unfold failureNoted
  rw [port_updMeter_same]
  exact endLegOf_legJob h _

/-- The check that waits for the message ends unanswered. -/
theorem failureNoted_check {c : InFlight} {m : Message} (hc : s.scan.inFlight = some c) (hp : c.port = p)
    (hm : c.number ∈ m.purposes.scan) :
    (failureNoted s p m).scan.inFlight = none ∧
      (∃ x, (failureNoted s p m).ctx p = unanswered c.kind c.pass x) ∧
      (c.kind = .delay → ((failureNoted s p m).port p).meter.scanJob = none) := by
  have hflight : (if m.purposes.relay then s.countDrop p else s).scan.inFlight = some c := by
    rw [countDropIf_eq, updCtx_scan]
    exact hc
  obtain ⟨hnone, hport⟩ := scanMessageFailed_ends hflight hp hm
  unfold failureNoted State.ctx
  rw [port_updMeter_same, hport]
  refine ⟨hnone, ⟨_, rfl⟩, fun hk => ?_⟩
  rw [endLegOf_scanJob]
  exact (congrArg Meter.scanJob (if_pos hk)).trans (endJob_scan _)

theorem failureNoted_of_none {m : Message} (hrelay : m.purposes.relay = false) (hscan : m.purposes.scan = [])
    (hmeasure : m.purposes.measurement = []) : failureNoted s p m = s := by
  have hother : s.scanMessageFailed p m = s := scanMessageFailed_other fun c _ _ => by rw [hscan]; exact List.not_mem_nil
  unfold failureNoted
  rw [hrelay, hmeasure, if_neg Bool.false_ne_true, hother]
  exact updPort_of_fixed rfl

/-- Whether a failed message of purposes `x` faults port `p`: a greeting in GREET, a measurement in MEASURE. -/
def faultsPort (s : State) (p : PortId) (x : Purposes) : Bool :=
  (x.greeting && s.portState p == .greet) || (!x.measurement.isEmpty && s.portState p == .measure)

theorem faultsPort_iff (x : Purposes) :
    faultsPort s p x = true ↔
      x.greeting = true ∧ s.portState p = .greet ∨ x.measurement ≠ [] ∧ s.portState p = .measure := by
  simp [faultsPort]

theorem messageFailed_eq (m : Message) :
    s.messageFailed p m =
      if faultsPort s p m.purposes then (failureNoted s p m).fault p .channelFail else failureNoted s p m := by
  have hnoted : faultsPort (failureNoted s p m) p m.purposes = faultsPort s p m.purposes := by
    unfold faultsPort
    rw [(failureNoted_keeps m).1]
  rw [← hnoted]
  rfl

theorem messageFailed_stays {m : Message} (h : ¬ faultsPort s p m.purposes = true) : s.messageFailed p m = failureNoted s p m := by
  rw [messageFailed_eq, if_neg h]

theorem messageFailed_steps (m : Message) : FaultSteps p (failureNoted s p m) (s.messageFailed p m) := by
  rw [messageFailed_eq]
  split
  · exact fault_steps _
  · exact .refl

/-- No fault leads to a state that transmits (R140). -/
theorem faultState_silent : (s.faultState p).transmits = false := by
  unfold State.faultState
  split
  · rfl
  · split
    · rfl
    · rfl
    · split <;> rfl

/-- CHANNEL_FAIL (R26, R95): the code, the state, and the transmitter off. -/
theorem messageFailed_faulted {m : Message} (h : faultsPort s p m.purposes = true) :
    ((s.messageFailed p m).ctx p).lastFault = .channelFail ∧ (s.messageFailed p m).portState p = s.faultState p ∧
      ((s.messageFailed p m).port p).framer.tx = none := by
  rw [messageFailed_eq, if_pos h, ← failureNoted_faultState m]
  exact ⟨(fault_outcome _).1, (fault_outcome _).2, (fault_taken _).entered.transmitter faultState_silent⟩

/-- A check that has gone unanswered stays so through the fault. -/
theorem messageFailed_check {c : InFlight} {m : Message} (hc : s.scan.inFlight = some c) (hp : c.port = p)
    (hm : c.number ∈ m.purposes.scan) :
    (s.messageFailed p m).scan.inFlight = none ∧
      scanRecord ((s.messageFailed p m).ctx p) = (some c.kind, .noReply, c.pass) ∧
      ((s.messageFailed p m).ctx p).hasFlag .peerNoReply = true ∧
      (c.kind = .delay → ((s.messageFailed p m).port p).meter.scanJob = none) := by
  obtain ⟨hnone, ⟨x, hx⟩, hjob⟩ := failureNoted_check hc hp hm
  obtain ⟨hover, hkept, hgone⟩ := (messageFailed_steps m).checkStaysOver hnone
  rw [hx] at hkept
  have hflags : ((s.messageFailed p m).ctx p).flags = (unanswered c.kind c.pass x).flags := congrArg (·.1) hkept
  refine ⟨hover, congrArg (·.2.1) hkept, ?_, fun hk => hgone (hjob hk)⟩
  unfold Context.hasFlag
  rw [hflags]
  exact unanswered_hasFlag c.kind c.pass x

/-- Everything a message that fails after its fourth attempt leads to. -/
theorem messageFailed_failed (m : Message) : MessageFailed p m.purposes s (s.messageFailed p m) where
  event := PortEvent.refl.messageFailed m
  relay := by
    rw [(messageFailed_steps m).relayDrops, (failureNoted_keeps m).2.2, satInc]
    cases m.purposes.relay <;> simp
  greeting hx hs :=
    have h := messageFailed_faulted ((faultsPort_iff _).mpr (.inl ⟨hx, hs⟩))
    ⟨h.1, h.2.1⟩
  measurement hx hs :=
    have h := messageFailed_faulted ((faultsPort_iff _).mpr (.inr ⟨hx, hs⟩))
    ⟨h.1, h.2.1⟩
  leg hx hs := by
    have hstays : ¬ faultsPort s p m.purposes = true := by simp [faultsPort_iff, hs]
    rw [messageFailed_stays hstays]
    exact ⟨failureNoted_legJob hx, (failureNoted_keeps m).1.trans hs⟩
  scan c hc hp hm := by
    obtain ⟨hnone, hrecord, hflag, hjob⟩ := messageFailed_check hc hp hm
    exact ⟨hnone, congrArg (·.1) hrecord, congrArg (·.2.1) hrecord, congrArg (·.2.2) hrecord, hflag, hjob⟩
  others hrelay hscan hmeasure hgreeting := by
    have hstays : ¬ faultsPort s p m.purposes = true := by
      rcases hgreeting with h | h <;> simp [faultsPort_iff, hmeasure, h]
    rw [messageFailed_stays hstays, failureNoted_of_none hrelay hscan hmeasure]

/-! ### The byte timer (R94) -/

theorem exec_byteTimerExpiry (hs : (s.port p).channel.sender = .offer) (ho : (s.port p).channel.onOffer = true)
    (ht : (s.port p).channel.byteTimer ≥ 32) : exec (.byteTimerExpiry p) s = .next (s.attemptFailed p) :=
  if_pos (show _ ∧ _ ∧ _ ≥ 32 from ⟨hs, ho, ht⟩)

theorem attemptFailed_retries {m : Message} (hm : (s.port p).channel.sending = some m) (h : (s.port p).channel.attempt < 4) :
    s.attemptFailed p =
      s.updPort p fun x => { x with channel := x.channel.beginAttempt m (x.channel.attempt + 1) (s.buildMessage p m) } := by
  unfold State.attemptFailed
  dsimp only
  rw [hm]
  exact (if_pos h).trans (updPort_congr rfl)

theorem attemptFailed_fails {m : Message} (hm : (s.port p).channel.sending = some m) (h : (s.port p).channel.attempt ≥ 4) :
    s.attemptFailed p = (s.updPort p fun x => { x with channel := x.channel.endMessage }).messageFailed p m := by
  unfold State.attemptFailed
  dsimp only
  rw [hm]
  exact if_neg (Nat.not_lt.mpr h)

/-- The end of the message changes the channel alone. -/
theorem endMessage_portState :
    (s.updPort p fun x => { x with channel := x.channel.endMessage }).portState p = s.portState p := by
  unfold State.portState State.ctx
  rw [port_updPort_same]

/-- Settles O20: a byte not taken begins the next attempt, and after the fourth the message has failed. -/
theorem byteTimerExpiry : Obligations.ByteTimerExpiry := by
  intro s p m hs ho ht hm
  refine ⟨_, exec_byteTimerExpiry hs ho ht, PortEvent.refl.attemptFailed, fun h => ?_, fun h hrelay hscan hmeasure hgreeting => ?_,
    fun h hx hgreet => ?_, fun h => ?_⟩
  · rw [attemptFailed_retries hm h]
    rfl
  · rw [attemptFailed_fails hm h]
    exact (messageFailed_failed m).others hrelay hscan hmeasure (.inl hgreeting)
  · have hfault := faultState_updPort (s := s) (p := p) (f := fun x => { x with channel := x.channel.endMessage }) rfl
    rw [attemptFailed_fails hm h, ← hfault]
    exact messageFailed_faulted ((faultsPort_iff _).mpr (.inl ⟨hx, endMessage_portState.trans hgreet⟩))
  · rw [attemptFailed_fails hm h]
    exact messageFailed_failed m

end Sys2Proof.Machine.MessageChannel
end

section
/-! The length computation of the Delay Meter (R118, R119): one equation for what it writes, and from it what the meter, the port context
and the dirty set hold afterwards. -/

namespace Sys2Proof.Machine.DelayMeter

open ServiceLane

variable {p : PortId} {s : State}

/-! ### The arithmetic -/

/-- The length in decimetres that port `p` computes from round trip `r2`, before the clamp of R119. -/
def unclampedLength (s : State) (p : PortId) (r2 : Nat) (r : DelayRecord) : Nat :=
  lengthRaw (r2 - (104 + (s.entry p).trim + r.trim)) (s.ctx p).cable.propagation

theorem lengthOf_eq (own : Nat) (r : DelayRecord) :
    s.lengthOf p own r = lengthClamped (unclampedLength s p (roundTrip own r.l2) r) := by
  rw [lengthClamped_eq]
  unfold unclampedLength State.lengthOf lengthRaw roundTrip Config.cycleHalfTicks CableIdentity.propagation
  cases (s.ctx p).cable <;> rfl

/-- N2 is clamped exactly when the round trip is less than the two transits and the two trims. -/
theorem netRaw_neg_iff (r2 near far : Nat) : netRaw r2 near far < 0 ↔ r2 < 104 + near + far := by
  unfold netRaw Config.transitHalfTicks
  omega

/-! ### What the computation writes -/

theorem setFlagIf_entry (b : Bool) (f : Flag) : (s.setFlagIf b p f).entry p = s.entry p := by
  unfold State.entry
  rw [setFlagIf_plan]

/-- The writes in their order: R2 and N2, the flags of the two clamps, the length, the flag of a marked length too far from it. -/
theorem storeLength_writes (own : Nat) (r : DelayRecord) :
    let r2 := roundTrip own r.l2
    let less := 104 + (s.entry p).trim + r.trim
    s.storeLength p own r =
      ((((s.updMeter p fun m => { m with lastR2 := some r2, lastN2 := some (r2 - less) }).setFlagIf
        (decide (r2 < less)) p .delayNegative).setFlagIf (decide (unclampedLength s p r2 r > 4095)) p .lengthSat).updCtx p
          fun c => { c with length := some (s.lengthOf p own r) }).setFlagIf
            (lengthDisagrees (s.entry p) (s.ctx p).cable (s.lengthOf p own r)) p .lengthDisagrees := by
  intro r2 less
  unfold State.storeLength computeLength
  simp only [toNat_netRaw, netRaw_neg_iff, updCtx_entry, setFlagIf_entry]
  rw [lengthOf_eq]
  rfl

/-- The meter's last R2 and last N2 are replaced, and nothing else of the meter (R118). -/
theorem storeLength_meter (own : Nat) (r : DelayRecord) :
    ((s.storeLength p own r).port p).meter =
      { (s.port p).meter with
        lastR2 := some (roundTrip own r.l2)
        lastN2 := some (roundTrip own r.l2 - (104 + (s.entry p).trim + r.trim)) } := by
  rw [storeLength_writes,
    ((((ContextOnly.refl.setFlagIf _ _).setFlagIf _ _).updCtx _).setFlagIf _ _).meter, port_updMeter_same]

theorem hasFlag_updLength (n : Option Nat) (g : Flag) :
    ((s.updCtx p fun c => { c with length := n }).ctx p).hasFlag g = (s.ctx p).hasFlag g := by
  rw [ctx_updCtx_same]
  rfl

/-- The condition on which the computation sets a flag (R118, R119). -/
def lengthFlag (s : State) (p : PortId) (own : Nat) (r : DelayRecord) : Flag → Bool
  | .delayNegative => decide (roundTrip own r.l2 < 104 + (s.entry p).trim + r.trim)
  | .lengthSat => decide (unclampedLength s p (roundTrip own r.l2) r > 4095)
  | .lengthDisagrees => lengthDisagrees (s.entry p) (s.ctx p).cable (s.lengthOf p own r)
  | _ => false

theorem flag_beq_eq_decide (f g : Flag) : (f == g) = decide (f = g) := rfl

/-- A flag set before stays set, and each flag is set where its condition holds. -/
theorem storeLength_hasFlag (own : Nat) (r : DelayRecord) (g : Flag) :
    ((s.storeLength p own r).ctx p).hasFlag g = ((s.ctx p).hasFlag g || lengthFlag s p own r g) := by
  rw [storeLength_writes, hasFlag_setFlagIf, hasFlag_updLength, hasFlag_setFlagIf, hasFlag_setFlagIf, ctx_updMeter_same]
  cases g <;>
    simp only [lengthFlag, flag_beq_eq_decide, reduceCtorEq, decide_true, decide_false, Bool.and_true, Bool.and_false, Bool.or_false]

/-- R119: the marked length of a VALID cable identity, compared with the length found. -/
theorem lengthDisagrees_valid (e : Entry) (f : IdentityFields) (length : Nat) :
    lengthDisagrees e (.valid f) length =
      decide (f.marked > length + e.tolerance ∨ length > f.marked + e.tolerance) :=
  decide_eq_decide.mpr ((absDiff_gt_iff _ _ _).trans Or.comm)

/-! ### The dirty mark -/

/-- A change of a port context marks the port dirty (R2). -/
theorem updCtx_dirty {f : Context → Context} (h : f (s.ctx p) ≠ s.ctx p) : maskHas (s.updCtx p f).page.dirty p = true := by
  unfold State.updCtx
  rw [if_neg h]
  exact maskHas_or_portBit _ _

theorem storeLength_dirty {own : Nat} {r : DelayRecord} (h : (s.ctx p).length ≠ some (s.lengthOf p own r)) :
    maskHas (s.storeLength p own r).page.dirty p = true := by
  rw [storeLength_writes]
  refine (PortEvent.refl.setFlagIf _ _).1.dirty_of (updCtx_dirty fun hsame => h ?_)
  have hlength := congrArg Context.length hsame
  rw [setFlagIf_length, setFlagIf_length, ctx_updMeter_same] at hlength
  exact hlength.symm

/-- Settles O30: R2, N2, the length, its three flags and the dirty mark, each by the lemma that reads it off the writes. -/
theorem lengthComputed : Obligations.LengthComputed := by
  intro s p own r
  have hmeter := storeLength_meter (s := s) (p := p) own r
  refine ⟨PortEvent.refl.storeLength own r, congrArg Meter.lastR2 hmeter, congrArg Meter.lastN2 hmeter,
    (storeLength_stored own r).length, storeLength_hasFlag own r _, storeLength_hasFlag own r _,
    (storeLength_hasFlag own r _).trans (congrArg _ ?_), storeLength_dirty⟩
  unfold lengthFlag State.lengthOf
  cases (s.ctx p).cable with
  | valid f => exact lengthDisagrees_valid _ _ _
  | _ => rfl

end Sys2Proof.Machine.DelayMeter
end
